-- ==== Sys2Proof/Word.lean ====
section
/-! DEFINITION. The word types of the block (rule R5): every quantity is an unsigned number of a fixed width. -/

namespace Sys2Proof

/-- A `u32`: register contents, frequencies, thresholds, results. -/
abbrev Word := BitVec 32

/-- A `u8`: duty values, levels, points, pulses per revolution. -/
abbrev Byte := BitVec 8

/-- The one command word of the command port (rule R40). -/
abbrev CommandWord := BitVec 64

/-- The one response word of the command port (rule R45). -/
abbrev ResponseWord := BitVec 64

/-- A channel index `0 .. 15`: a PWM channel, a tachometer channel or a cooling slot (rules R3, R40). -/
abbrev Channel := Fin 16

end Sys2Proof
end

