-- ==== Sys2Proof/Config.lean ====
section
/-! DEFINITION. What is fixed for the life of a machine: the constants of rule R3, the enumerations the records and the
commands share, the parameters of rule R4, and the values the spec leaves free (constants without a body). -/

namespace Sys2Proof

/-- Which edges delimit a tachometer measurement (rule R11). -/
inductive EdgeMode where
  | fallingToFalling
  | risingToRising
  | both
deriving DecidableEq, Repr

/-- Which point the fail-safe value replaces (rule R8, `watchdog_failsafe.edge_selection`). -/
inductive EdgeSelection where
  | rising
  | falling
deriving DecidableEq, Repr

/-- The record `watchdog_failsafe` of a PWM channel (rules R8, R115). -/
structure WatchdogFailsafe where
  enabled       : Bool
  edgeSelection : EdgeSelection
  failsafePoint : Byte
deriving DecidableEq, Repr

/-- The four 32-bit registers of a channel, in the order the spec lists them (rules R17, R26). -/
inductive RegKind where
  | ctrl
  | duty
  | tctrl
  | tsts
deriving DecidableEq, Repr

/-- `DEF_PWM` (rule R4): a PWM record without its cached fields. -/
structure PwmDefaults where
  targetFrequencyHz : Word
  dutyFallingPoint  : Byte
  watchdogFailsafe  : WatchdogFailsafe
  dutySyncDisabled  : Bool
  outputInverted    : Bool
deriving DecidableEq, Repr

/-- `DEF_TACH` (rule R4): a tachometer record without its cached field. -/
structure TachDefaults where
  edgeMode               : EdgeMode
  debounceLevel          : BitVec 2
  pulsesPerRevolution    : Byte
  dividerExponent        : BitVec 4
  inverseLimitComparison : Bool
  threshold              : Word
deriving DecidableEq, Repr

/-- The parameters "the model takes as arguments" (rule R4). A machine carries one value of this type and no step
changes it; a claim quantifies over it by quantifying over the state. `MAX_LEVELS` is fixed by the spec and stands below. -/
structure Params where
  /-- `INPUT_CLOCK_HZ`: any u32, 0 included. -/
  inputClockHz : Word
  /-- `DEF_PWM`. -/
  defPwm       : PwmDefaults
  /-- `DEF_TACH`. -/
  defTach      : TachDefaults
  /-- `PORT_FAULTS`: an access on the Register Access Port may fault (rule R38). -/
  portFaults   : Bool
  /-- `PLAIN_STORAGE`: control, duty and tach-control registers read back what was last written (rule R33). -/
  plainStorage : Bool
deriving DecidableEq, Repr

namespace Config

/-- `PERIOD_TICKS` (rule R3). -/
def periodTicks : Nat := 255

/-- The number of values of the coarse field, `0 .. 15` (rule R3). -/
def coarseCount : Nat := 16

/-- The number of values of the fine field, `0 .. 255` (rule R3). -/
def fineCount : Nat := 256

/-- `POLL_BOUND` (rule R3). -/
def pollBound : Nat := 3

/-- `TACH_SENTINEL` (rule R3): "counter saturated". -/
def tachSentinel : BitVec 20 := 0xFFFFF#20

/-- `CH_STRIDE` (rule R3). -/
def chStride : Nat := 0x10

/-- The RPM factor (rule R3). -/
def rpmFactor : Nat := 60

/-- `MAX_LEVELS` (rule R4: "fixed to 256 by this spec"). -/
def maxLevels : Nat := 256

/-- FREE VALUE (rules R27, R32; log entry 3): the word that goes with the engine's n-th answer when the state lists no
answer. It is the value a read returns, or what a faulted write leaves in the register. -/
opaque freeAnswerWord : Nat → Word

/-- FREE VALUE (rule R38; log entry 3): whether the engine's n-th answer is the port fault, when the state lists no
answer. It counts only where `PORT_FAULTS` is true. -/
opaque freeAnswerFault : Nat → Bool

/-- FREE VALUE (rules R24, R33, R140; log entry 4): what register `k` of channel `ch` holds after the engine's own
reset, "an unknown value fixed since reset". -/
opaque engineReset : (ch : Nat) → (k : RegKind) → Word

/-- FREE VALUE (rule R95; log entry 8): the quotient of the clock by an effective divisor of 0. The rule is stated for
`divider >= 1` and `ppr >= 1` only; no state a run reaches has another value. -/
opaque quotientByZero : (clk : Word) → Word

end Config

end Sys2Proof
end

