-- ==== Sys2Proof/Syntax.lean ====
section
/-! DEFINITION. The fourteen commands of `spec/opcode_table.json` as one inductive, with the operands of rule R43 and no
must-be-0 bits. -/

namespace Sys2Proof

/-- The operation codes of rule R41, by name. -/
inductive Opcode where
  | resolve | enablePwm
  | setDuty | setDutyFast | getDuty
  | enableTach | getRpm
  | getMaxState | getCurState | setCurState
  | cfgFailsafe | cfgFlags | cfgCoolClear | cfgCoolLevel
deriving DecidableEq, Repr

/-- A command (rules R41, R43). Operands have the width of their field, so an operand that is in its field and outside
its legal range (a duty of 256, an edge code of 3) is a command: rule R44 calls it a legal spelling, and the command's
own rule rejects it. -/
inductive Instr where
  /-- `RESOLVE` (R63). -/
  | resolve (target : Word)
  /-- `ENABLE_PWM` (R78). -/
  | enablePwm (ch : Channel) (freq : Word)
  /-- `SET_DUTY` (R76). -/
  | setDuty (ch : Channel) (value : Word)
  /-- `SET_DUTY_FAST` (R77). -/
  | setDutyFast (ch : Channel) (value : Word)
  /-- `GET_DUTY` (R79). -/
  | getDuty (ch : Channel)
  /-- `ENABLE_TACH` (R92); `edge` is the two-bit code of `edge_mode`, 3 not legal. -/
  | enableTach (ch : Channel) (edge : BitVec 2) (debounce : BitVec 2) (ppr : Byte) (exp : BitVec 4) (inv : Bool)
      (threshold : Word)
  /-- `GET_RPM` (R93). -/
  | getRpm (ch : Channel)
  /-- `GET_MAX_STATE` (R106). -/
  | getMaxState (ch : Channel)
  /-- `GET_CUR_STATE` (R107). -/
  | getCurState (ch : Channel)
  /-- `SET_CUR_STATE` (R108). -/
  | setCurState (ch : Channel) (state : Word)
  /-- `CFG_FAILSAFE` (R115). -/
  | cfgFailsafe (ch : Channel) (enabled : Bool) (edge : EdgeSelection) (point : Byte)
  /-- `CFG_FLAGS` (R116). -/
  | cfgFlags (ch : Channel) (dutySyncDisabled : Bool) (outputInverted : Bool)
  /-- `CFG_COOL_CLEAR` (R117). -/
  | cfgCoolClear (ch : Channel)
  /-- `CFG_COOL_LEVEL` (R118). -/
  | cfgCoolLevel (ch : Channel) (level : Byte)
deriving DecidableEq, Repr

end Sys2Proof
end

