-- ==== Sys2Proof/WellFormed.lean ====
section
/-! DEFINITION. The static check on a command: every operand inside the legal range rule R43 gives it.

A command that fails it is still a legal spelling (rule R44): it decodes, runs, and completes with `OUT_OF_RANGE`. The
range of `SET_CUR_STATE` depends on the store (`0 .. max_state`), so it is no part of this check. -/

namespace Sys2Proof

/-- The operand ranges of rule R43 that need no state. -/
def Instr.wellFormed : Instr → Bool
  | .resolve _ => true
  | .enablePwm _ _ => true
  | .setDuty _ value => decide (value.toNat ≤ 255)
  | .setDutyFast _ value => decide (value.toNat ≤ 255)
  | .getDuty _ => true
  | .enableTach _ edge _ ppr _ _ threshold =>
      decide (edge.toNat ≤ 2) && decide (1 ≤ ppr.toNat) && decide (threshold.toNat ≤ 0xFFFFF)
  | .getRpm _ => true
  | .getMaxState _ => true
  | .getCurState _ => true
  | .setCurState _ _ => true
  | .cfgFailsafe _ _ _ _ => true
  | .cfgFlags _ _ _ => true
  | .cfgCoolClear _ => true
  | .cfgCoolLevel _ _ => true

end Sys2Proof
end

