-- ==== Sys2Proof/Decode.lean ====
section
/-! DEFINITION. The command word decoded (rules R40 to R44, R46, R49), total on all 64-bit words and rejecting by name;
then the encoder, and the opcode table's own match and mask for each row. -/

namespace Sys2Proof

/-- `OPC` of each command (rule R41). -/
def Opcode.code : Opcode → BitVec 8
  | .resolve      => 0x01#8
  | .enablePwm    => 0x02#8
  | .setDuty      => 0x10#8
  | .setDutyFast  => 0x11#8
  | .getDuty      => 0x12#8
  | .enableTach   => 0x20#8
  | .getRpm       => 0x21#8
  | .getMaxState  => 0x30#8
  | .getCurState  => 0x31#8
  | .setCurState  => 0x32#8
  | .cfgFailsafe  => 0x40#8
  | .cfgFlags     => 0x41#8
  | .cfgCoolClear => 0x42#8
  | .cfgCoolLevel => 0x43#8

/-- Every operation code, in the order of rule R41. -/
def Opcode.all : List Opcode :=
  [.resolve, .enablePwm, .setDuty, .setDutyFast, .getDuty, .enableTach, .getRpm, .getMaxState, .getCurState,
   .setCurState, .cfgFailsafe, .cfgFlags, .cfgCoolClear, .cfgCoolLevel]

/-- The operation code that `OPC` spells, if rule R41 assigns it. -/
def Opcode.ofCode (c : BitVec 8) : Option Opcode :=
  Opcode.all.find? fun op => op.code == c

/-- The must-be-0 bits of each command's word (rules R43, R44): the unused part of `ARG`, and `CH` for `RESOLVE`. -/
def Opcode.mustBeZero : Opcode → CommandWord
  | .resolve      => 0x00FFFFFF00000000#64
  | .enablePwm    => 0x000FFFFF00000000#64
  | .setDuty      => 0x000FFFFF00000000#64
  | .setDutyFast  => 0x000FFFFF00000000#64
  | .getDuty      => 0x000FFFFFFFFFFFFF#64
  | .enableTach   => 0x000E000000000000#64
  | .getRpm       => 0x000FFFFFFFFFFFFF#64
  | .getMaxState  => 0x000FFFFFFFFFFFFF#64
  | .getCurState  => 0x000FFFFFFFFFFFFF#64
  | .setCurState  => 0x000FFFFF00000000#64
  | .cfgFailsafe  => 0x000FFFFFFFFFFC00#64
  | .cfgFlags     => 0x000FFFFFFFFFFFFC#64
  | .cfgCoolClear => 0x000FFFFFFFFFFFFF#64
  | .cfgCoolLevel => 0x000FFFFFFFFFFF00#64

/-- `OPC = w[63:56]` (rule R40). -/
def opcField (w : CommandWord) : BitVec 8 := w.extractLsb' 56 8

/-- `CH = w[55:52]` (rule R40). -/
def chField (w : CommandWord) : Channel := (w.extractLsb' 52 4).toFin

/-- `edge_selection` as `CFG_FAILSAFE` spells it: 1 = `Falling`, 0 = `Rising` (rule R43). -/
def edgeSelectionOfBit (b : Bool) : EdgeSelection := if b then .falling else .rising

/-- The bit of `edge_selection` (rule R43). -/
def edgeSelectionBit : EdgeSelection → Bool
  | .rising  => false
  | .falling => true

/-- The operands of a word whose `OPC` is `op`, from the sub-fields of rule R43. -/
def Opcode.operands (w : CommandWord) : Opcode → Instr
  | .resolve      => .resolve (w.extractLsb' 0 32)
  | .enablePwm    => .enablePwm (chField w) (w.extractLsb' 0 32)
  | .setDuty      => .setDuty (chField w) (w.extractLsb' 0 32)
  | .setDutyFast  => .setDutyFast (chField w) (w.extractLsb' 0 32)
  | .getDuty      => .getDuty (chField w)
  | .enableTach   => .enableTach (chField w) (w.extractLsb' 44 2) (w.extractLsb' 46 2) (w.extractLsb' 32 8)
                       (w.extractLsb' 40 4) (w.getLsbD 48) (w.extractLsb' 0 32)
  | .getRpm       => .getRpm (chField w)
  | .getMaxState  => .getMaxState (chField w)
  | .getCurState  => .getCurState (chField w)
  | .setCurState  => .setCurState (chField w) (w.extractLsb' 0 32)
  | .cfgFailsafe  => .cfgFailsafe (chField w) (w.getLsbD 9) (edgeSelectionOfBit (w.getLsbD 8)) (w.extractLsb' 0 8)
  | .cfgFlags     => .cfgFlags (chField w) (w.getLsbD 0) (w.getLsbD 1)
  | .cfgCoolClear => .cfgCoolClear (chField w)
  | .cfgCoolLevel => .cfgCoolLevel (chField w) (w.extractLsb' 0 8)

/-- Why a word spells no command (rule R46). -/
inductive DecodeReject where
  /-- `OPC` is not assigned by rule R41. -/
  | unassignedOpcode (opc : BitVec 8)
  /-- A must-be-0 bit of the row is 1 (rule R44). -/
  | reservedBitSet (op : Opcode)
deriving DecidableEq, Repr

/-- Steps (1) to (3) of the decode order (rule R49). -/
def decode (w : CommandWord) : Except DecodeReject Instr :=
  match Opcode.ofCode (opcField w) with
  | none    => .error (.unassignedOpcode (opcField w))
  | some op => if w &&& op.mustBeZero = 0#64 then .ok (op.operands w) else .error (.reservedBitSet op)

/-- The command that a word of the opcode table spells. A command is one 64-bit word, so the table's bit numbers are
the word's (rule R40); the bits from `nbits` up are 0. -/
def decodeTableWord (nbits w : Nat) : Option Instr :=
  match decode (BitVec.ofNat 64 (w % 2 ^ nbits)) with
  | .ok i    => some i
  | .error _ => none

/-! ### The encoder -/

/-- `OPC ++ CH ++ ARG` (rule R40). -/
def assemble (op : Opcode) (ch : Channel) (arg : BitVec 52) : CommandWord :=
  op.code ++ BitVec.ofFin (w := 4) ch ++ arg

/-- `ARG` of a command with one u32 operand in `ARG[31:0]` (rule R43). -/
def argWord (v : Word) : BitVec 52 := 0#20 ++ v

/-- `ARG` of `ENABLE_TACH` (rule R43): bits 51:49 zero, 48 inverse limit, 47:46 debounce, 45:44 edge, 43:40 exponent,
39:32 pulses per revolution, 31:0 threshold. -/
def argTach (edge debounce : BitVec 2) (ppr : Byte) (exp : BitVec 4) (inv : Bool) (threshold : Word) : BitVec 52 :=
  0#3 ++ BitVec.ofBool inv ++ debounce ++ edge ++ exp ++ ppr ++ threshold

/-- `ARG` of `CFG_FAILSAFE` (rule R43): bit 9 enabled, bit 8 edge selection, bits 7:0 the point. -/
def argFailsafe (enabled : Bool) (edge : EdgeSelection) (point : Byte) : BitVec 52 :=
  0#42 ++ BitVec.ofBool enabled ++ BitVec.ofBool (edgeSelectionBit edge) ++ point

/-- `ARG` of `CFG_FLAGS` (rule R43): bit 1 output inverted, bit 0 duty sync disabled. -/
def argFlags (dutySyncDisabled outputInverted : Bool) : BitVec 52 :=
  0#50 ++ BitVec.ofBool outputInverted ++ BitVec.ofBool dutySyncDisabled

/-- `ARG` of `CFG_COOL_LEVEL` (rule R43). -/
def argLevel (level : Byte) : BitVec 52 := 0#44 ++ level

/-- The command word of a command (rules R40, R41, R43). -/
def encode : Instr → CommandWord
  | .resolve target => assemble .resolve 0 (argWord target)
  | .enablePwm ch freq => assemble .enablePwm ch (argWord freq)
  | .setDuty ch value => assemble .setDuty ch (argWord value)
  | .setDutyFast ch value => assemble .setDutyFast ch (argWord value)
  | .getDuty ch => assemble .getDuty ch 0#52
  | .enableTach ch edge debounce ppr exp inv threshold =>
      assemble .enableTach ch (argTach edge debounce ppr exp inv threshold)
  | .getRpm ch => assemble .getRpm ch 0#52
  | .getMaxState ch => assemble .getMaxState ch 0#52
  | .getCurState ch => assemble .getCurState ch 0#52
  | .setCurState ch state => assemble .setCurState ch (argWord state)
  | .cfgFailsafe ch enabled edge point => assemble .cfgFailsafe ch (argFailsafe enabled edge point)
  | .cfgFlags ch dutySyncDisabled outputInverted => assemble .cfgFlags ch (argFlags dutySyncDisabled outputInverted)
  | .cfgCoolClear ch => assemble .cfgCoolClear ch 0#52
  | .cfgCoolLevel ch level => assemble .cfgCoolLevel ch (argLevel level)

/-- The operation code of a command (rule R41). -/
def Instr.opcode : Instr → Opcode
  | .resolve _ => .resolve
  | .enablePwm _ _ => .enablePwm
  | .setDuty _ _ => .setDuty
  | .setDutyFast _ _ => .setDutyFast
  | .getDuty _ => .getDuty
  | .enableTach _ _ _ _ _ _ _ => .enableTach
  | .getRpm _ => .getRpm
  | .getMaxState _ => .getMaxState
  | .getCurState _ => .getCurState
  | .setCurState _ _ => .setCurState
  | .cfgFailsafe _ _ _ _ => .cfgFailsafe
  | .cfgFlags _ _ _ => .cfgFlags
  | .cfgCoolClear _ => .cfgCoolClear
  | .cfgCoolLevel _ _ => .cfgCoolLevel

/-- `disable_pwm <ch>`, the one pseudo-command (rule R48): another name of `set_duty <ch>, 0`. -/
def disablePwm (ch : Channel) : Instr := .setDuty ch 0#32

/-! ### The opcode table -/

/-- A row of `spec/opcode_table.json`: `word & mask = match` is the test (rule R44). -/
structure TableRow where
  op      : Opcode
  pattern : CommandWord
  mask    : CommandWord
deriving DecidableEq, Repr

/-- The table's rows, `match` and `mask` as the table gives them. -/
def opcodeTable : List TableRow :=
  [⟨.resolve,      0x0100000000000000#64, 0xFFFFFFFF00000000#64⟩,
   ⟨.enablePwm,    0x0200000000000000#64, 0xFF0FFFFF00000000#64⟩,
   ⟨.setDuty,      0x1000000000000000#64, 0xFF0FFFFF00000000#64⟩,
   ⟨.setDutyFast,  0x1100000000000000#64, 0xFF0FFFFF00000000#64⟩,
   ⟨.getDuty,      0x1200000000000000#64, 0xFF0FFFFFFFFFFFFF#64⟩,
   ⟨.enableTach,   0x2000000000000000#64, 0xFF0E000000000000#64⟩,
   ⟨.getRpm,       0x2100000000000000#64, 0xFF0FFFFFFFFFFFFF#64⟩,
   ⟨.getMaxState,  0x3000000000000000#64, 0xFF0FFFFFFFFFFFFF#64⟩,
   ⟨.getCurState,  0x3100000000000000#64, 0xFF0FFFFFFFFFFFFF#64⟩,
   ⟨.setCurState,  0x3200000000000000#64, 0xFF0FFFFF00000000#64⟩,
   ⟨.cfgFailsafe,  0x4000000000000000#64, 0xFF0FFFFFFFFFFC00#64⟩,
   ⟨.cfgFlags,     0x4100000000000000#64, 0xFF0FFFFFFFFFFFFC#64⟩,
   ⟨.cfgCoolClear, 0x4200000000000000#64, 0xFF0FFFFFFFFFFFFF#64⟩,
   ⟨.cfgCoolLevel, 0x4300000000000000#64, 0xFF0FFFFFFFFFFF00#64⟩]

/-- A word matches a row (rule R44). -/
def TableRow.matchesWord (row : TableRow) (w : CommandWord) : Bool := w &&& row.mask == row.pattern

end Sys2Proof
end

