-- ==== Sys2Proof/Machine/Defaults.lean ====
section
/-! DEFINITION. What reset loads that the spec does not fix: `ChannelDivider` (rule R91), which reset applies, and the one
set of parameter values that `State.reset` carries (log entries 1 and 2). -/

namespace Sys2Proof.Machine

/-- `ChannelDivider(exponent) = 2^(2·exponent)` (rule R91). -/
def channelDivider (exponent : BitVec 4) : Word := 1#32 <<< (2 * exponent.toNat)

/-- `DEF_PWM` as `State.reset` has it. PRESUMED, unsafe (log entry 2): the family's values, spec/93 G8; the spec keeps
`DEF_PWM` a parameter. -/
def defaultPwm : PwmDefaults where
  targetFrequencyHz := 25000#32
  dutyFallingPoint  := 10#8
  watchdogFailsafe  := { enabled := false, edgeSelection := .falling, failsafePoint := 16#8 }
  dutySyncDisabled  := false
  outputInverted    := false

/-- `DEF_TACH` as `State.reset` has it. PRESUMED, unsafe (log entry 2): the family's values, spec/93 G8; the spec keeps
`DEF_TACH` a parameter. -/
def defaultTach : TachDefaults where
  edgeMode               := .fallingToFalling
  debounceLevel          := 0#2
  pulsesPerRevolution    := 2#8
  dividerExponent        := 5#4
  inverseLimitComparison := false
  threshold              := 0#32

/-- The parameters `State.reset` carries. DESIGN CHOICE, unsafe (log entry 1): the only clock the source uses, no port
faults (rule R4, "`false` in the default environment"), and no `PLAIN_STORAGE`. -/
def defaultParams : Params where
  inputClockHz := 24000000#32
  defPwm       := defaultPwm
  defTach      := defaultTach
  portFaults   := false
  plainStorage := false

end Sys2Proof.Machine
end

