-- ==== Sys2Proof/Machine/State.lean ====
section
/-! DEFINITION. The state of the block and of what it meets at its two ports, as plain data, and the state after reset.

The block's own state is the Channel Configuration Store (rule R7): `pwm`, `tach`, `cool`. Beside it stand the
parameters (rule R4), the engine's registers as plain storage would hold them (rules R17, R33), the host's pending
inputs and the responses it has had (rule R42), the engine's answers to port accesses (rules R27, R32, R38), and the
record of port accesses (rules R32, R153). -/

namespace Sys2Proof.Machine

/-- `PwmChannelConfig` (rules R8, R9). -/
structure PwmChannelConfig where
  targetFrequencyHz   : Word
  achievedFrequencyHz : Word
  coarse              : BitVec 4
  fine                : BitVec 8
  dutyFallingPoint    : Byte
  watchdogFailsafe    : WatchdogFailsafe
  dutySyncDisabled    : Bool
  outputInverted      : Bool
deriving DecidableEq, Repr

/-- `TachChannelConfig` (rules R11, R12). -/
structure TachChannelConfig where
  edgeMode               : EdgeMode
  debounceLevel          : BitVec 2
  pulsesPerRevolution    : Byte
  dividerExponent        : BitVec 4
  inverseLimitComparison : Bool
  threshold              : Word
  divider                : Word
deriving DecidableEq, Repr

/-- `CoolingDevice` (rule R13). -/
structure CoolingDevice where
  pwmChannel   : Channel
  levels       : List Byte
  currentState : Nat
deriving DecidableEq, Repr

/-- The engine's three registers of a channel that `PLAIN_STORAGE` covers (rules R17, R33): the last word written, or the
unknown value since reset. The tach-status register is volatile and has no entry (rule R21). -/
structure ChannelRegs where
  ctrl  : Word
  duty  : Word
  tctrl : Word
deriving DecidableEq, Repr

/-- What the engine does with one port access (rules R27, R28, R38): whether it yields the port fault, which counts
only where `PORT_FAULTS` is true, and a word: the value a read returns, or what a faulted write leaves behind. -/
structure EngineAnswer where
  faults : Bool
  word   : Word
deriving DecidableEq, Repr

/-- One port access as rule R153 makes it observable: kind, offset, and value written or returned. A faulted access is
recorded as issued. -/
inductive PortAccess where
  | read (off : Nat) (value : Word)
  | write (off : Nat) (value : Word)
  | readFault (off : Nat)
  | writeFault (off : Nat) (value : Word)
deriving DecidableEq, Repr

/-- What the outside does to the block: the host presents a command word (rule R42), the block is reset between commands
(rule R140), or it is reset while it executes the command word `w` (rule R140, last sentence). -/
inductive HostInput where
  | command (w : CommandWord)
  | reset
  | resetDuring (w : CommandWord)
deriving DecidableEq, Repr

/-- The machine's state. -/
structure State where
  /-- The parameters of rule R4; no step changes them. -/
  params    : Params
  /-- `cfg.pwm[0..15]`. -/
  pwm       : Vector PwmChannelConfig 16
  /-- `cfg.tach[0..15]`. -/
  tach      : Vector TachChannelConfig 16
  /-- `cfg.cool[0..15]`, each `absent` or a device. -/
  cool      : Vector (Option CoolingDevice) 16
  /-- The engine's registers as plain storage holds them; a read consults them only where `PLAIN_STORAGE` is true. -/
  regs      : Vector ChannelRegs 16
  /-- What the host will present, next first. -/
  inputs    : List HostInput
  /-- The response words returned so far, oldest first. -/
  responses : List ResponseWord
  /-- The engine's answers to the coming port accesses, next first; once it is empty the answers are free. -/
  answers   : List EngineAnswer
  /-- The model's own counter of free answers drawn (log entry 3). -/
  draws     : Nat
  /-- The port accesses issued so far, oldest first. -/
  trace     : List PortAccess
deriving DecidableEq, Repr

/-- Reasons to stop with a fault. There are none: every error the spec describes is a completion status of a command
(rules R123 to R128), and "every command is nevertheless defined in every state; nothing faults for being out of order"
(rule R141). Nothing raises one. Safe. -/
inductive Fault where
deriving DecidableEq, Repr

/-- Reasons to refuse a step. -/
inductive Refusal where
  /-- The instruction has no meaning yet. Raised by an arm of `exec` only, and by none now: safe. -/
  | notModelled (mnemonic : String)
  /-- The block was reset while a command was in flight. Raised by `step` on the input `resetDuring`, by no command.
  "Which of its port accesses had completed is not defined" (rule R140); "a model should `refuse` runs that reset
  mid-command" (spec/93 U11). Safe: no claim about such a run can be proved. -/
  | resetMidCommand
deriving DecidableEq, Repr

/-- A PWM record after reset (rule R24): the fields of `DEF_PWM`, the cached fields 0. -/
def PwmChannelConfig.ofDefaults (d : PwmDefaults) : PwmChannelConfig where
  targetFrequencyHz   := d.targetFrequencyHz
  achievedFrequencyHz := 0#32
  coarse              := 0#4
  fine                := 0#8
  dutyFallingPoint    := d.dutyFallingPoint
  watchdogFailsafe    := d.watchdogFailsafe
  dutySyncDisabled    := d.dutySyncDisabled
  outputInverted      := d.outputInverted

/-- A tachometer record after reset (rule R24): the fields of `DEF_TACH`, `divider` computed from the exponent. -/
def TachChannelConfig.ofDefaults (d : TachDefaults) : TachChannelConfig where
  edgeMode               := d.edgeMode
  debounceLevel          := d.debounceLevel
  pulsesPerRevolution    := d.pulsesPerRevolution
  dividerExponent        := d.dividerExponent
  inverseLimitComparison := d.inverseLimitComparison
  threshold              := d.threshold
  divider                := channelDivider d.dividerExponent

/-- The state after reset of a machine with parameters `p`, over an engine whose registers hold `regs` (rules R24, R140):
the store at its defaults, no command presented, nothing returned, no access issued. -/
def State.resetWith (p : Params) (regs : Vector ChannelRegs 16) : State where
  params    := p
  pwm       := Vector.replicate 16 (PwmChannelConfig.ofDefaults p.defPwm)
  tach      := Vector.replicate 16 (TachChannelConfig.ofDefaults p.defTach)
  cool      := Vector.replicate 16 none
  regs      := regs
  inputs    := []
  responses := []
  answers   := []
  draws     := 0
  trace     := []

/-- The engine's registers after the engine's own reset: free values (rule R140, log entry 4). -/
def engineRegsAtReset : Vector ChannelRegs 16 :=
  Vector.ofFn fun ch =>
    { ctrl  := Config.engineReset ch.val .ctrl
      duty  := Config.engineReset ch.val .duty
      tctrl := Config.engineReset ch.val .tctrl }

/-- The machine right after reset, with the parameters log entries 1 and 2 name. -/
def State.reset : State := State.resetWith defaultParams engineRegsAtReset

end Sys2Proof.Machine
end

