-- ==== Sys2Proof/Machine/Operands.lean ====
section
/-! DEFINITION. The words the block builds and takes apart: register offsets (rule R26), the duty, control and
tach-control words (rules R70, R71, R90), the fields of the tach-status word (rule R21), and the operand codes. -/

namespace Sys2Proof.Machine

/-! ### Register offsets -/

/-- The place of a register inside its channel's stride (rule R26). -/
def regPlace : RegKind → Nat
  | .ctrl  => 0x0
  | .duty  => 0x4
  | .tctrl => 0x8
  | .tsts  => 0xC

/-- `CTRL(ch)`, `DUTY(ch)`, `TCTRL(ch)`, `TSTS(ch)` (rule R26): the byte offset of a register. -/
def regOffset (ch : Channel) (k : RegKind) : Nat := ch.val * Config.chStride + regPlace k

/-! ### Words written -/

/-- The mask of `PIN_EN` (bit 12) and `CLK_EN` (bit 16) (rules R18, R72, R73). -/
def enableMask : Word := 0x00011000#32

/-- The mask of the falling-point byte of the duty register (rules R19, R77). -/
def fallingMask : Word := 0x000000FF#32

/-- `DutyWord(rec, d)` for `d` in `1 .. 255` (rule R70). -/
def dutyWord (r : PwmChannelConfig) (d : Byte) : Word :=
  let w := 0xFF#32 <<< 24
  let w := if d = 255#8 then w else w ||| (0#32 <<< 8) ||| d.setWidth 32
  if r.watchdogFailsafe.enabled then w ||| (r.watchdogFailsafe.failsafePoint.setWidth 32 <<< 16) else w

/-- `CtrlWord(rec, coarse, fine)` (rule R71). -/
def ctrlWord (r : PwmChannelConfig) (coarse : BitVec 4) (fine : BitVec 8) : Word :=
  let w := (coarse.setWidth 32 <<< 8) ||| fine.setWidth 32
  if r.watchdogFailsafe.enabled then
    let w := w ||| (1#32 <<< 18)
    if r.watchdogFailsafe.edgeSelection = .falling then w ||| (1#32 <<< 19) else w
  else w

/-- `EdgeCode` (rule R90). -/
def edgeCode : EdgeMode → Word
  | .fallingToFalling => 0#32
  | .risingToRising   => 1#32
  | .both             => 2#32

/-- The edge mode an operand code names; 3 names none (rule R43). -/
def edgeModeOfCode (c : BitVec 2) : Option EdgeMode :=
  if c = 0#2 then some .fallingToFalling
  else if c = 1#2 then some .risingToRising
  else if c = 2#2 then some .both
  else none

/-- `TachCtrlWord(rec)` (rule R90). -/
def tachCtrlWord (r : TachChannelConfig) : Word :=
  let w := 1#32 <<< 28
  let w := w ||| (r.debounceLevel.setWidth 32 <<< 26)
  let w := w ||| (edgeCode r.edgeMode <<< 24)
  let w := w ||| (r.dividerExponent.setWidth 32 <<< 20)
  let w := w ||| (r.threshold.extractLsb' 0 20).setWidth 32
  if r.inverseLimitComparison then w ||| (1#32 <<< 30) else w

/-! ### The status word read -/

/-- `RAW`, bits 19:0 of the tach-status word (rule R21). -/
def rawField (v : Word) : BitVec 20 := v.extractLsb' 0 20

/-- `FULL`, bit 20 of the tach-status word (rule R21). -/
def fullFlag (v : Word) : Bool := v.getLsbD 20

end Sys2Proof.Machine
end

