-- ==== Sys2Proof/Machine/Flags.lean ====
section
/-! DEFINITION. The conditions a command reports (rule R16): the status code, the `exhausted` bit and the `stale` bit, and
the response word that carries them (rules R45, R123). The block keeps no flags. -/

namespace Sys2Proof.Machine

/-- The completion statuses (rule R123). -/
inductive Status where
  | ok
  | outOfRange
  | busFault
  | illegalCommand
  | noDevice
deriving DecidableEq, Repr

/-- `ST` of each status (rule R123). -/
def Status.code : Status → BitVec 4
  | .ok             => 0#4
  | .outOfRange     => 1#4
  | .busFault       => 2#4
  | .illegalCommand => 3#4
  | .noDevice       => 4#4

/-- `ST[63:60] ++ AUX[59:32] ++ VAL[31:0]` (rule R45). -/
def responseWord (st : Status) (aux : BitVec 28) (val : Word) : ResponseWord := st.code ++ aux ++ val

/-- `ST` of a response word (rule R45). -/
def statusField (r : ResponseWord) : BitVec 4 := r.extractLsb' 60 4

/-- `AUX` of a response word (rule R45). -/
def auxField (r : ResponseWord) : BitVec 28 := r.extractLsb' 32 28

/-- `VAL` of a response word (rule R45). -/
def valField (r : ResponseWord) : Word := r.extractLsb' 0 32

/-- `AUX` of a `RESOLVE` response (rules R45, R63): `[7:0] fine`, `[11:8] coarse`, `[12] exhausted`. -/
def resolveAux (coarse : BitVec 4) (fine : BitVec 8) (exhausted : Bool) : BitVec 28 :=
  ((BitVec.ofBool exhausted).setWidth 28 <<< 12) ||| (coarse.setWidth 28 <<< 8) ||| fine.setWidth 28

/-- `AUX` of a `GET_RPM` response (rules R45, R96): `[0] stale`. -/
def staleAux (stale : Bool) : BitVec 28 := (BitVec.ofBool stale).setWidth 28

/-- A duty value in its legal range `0 .. 255` (rules R76, R77). -/
def dutyInRange (value : Word) : Bool := decide (value.toNat ≤ 255)

/-- The range checks of `ENABLE_TACH` on the operands that need no edge mode (rule R92). -/
def tachOperandsInRange (ppr : Byte) (threshold : Word) : Bool :=
  decide (ppr ≠ 0#8) && decide (threshold.toNat ≤ 0xFFFFF)

end Sys2Proof.Machine
end

