-- ==== Sys2Proof/Machine/Ops.lean ====
section
/-! DEFINITION. The named operations the meanings share: reading and writing the store, the Register Access Port
(rules R27 to R29, R33, R38), completing a command and raising a status (rules R5, R130, R131), the block's reset
(rule R140) and what the sequencer does with an input that is no command. -/

namespace Sys2Proof.Machine

/-! ### The store -/

/-- `cfg.pwm[ch] <- r`. -/
def State.setPwm (s : State) (ch : Channel) (r : PwmChannelConfig) : State := { s with pwm := s.pwm.set ch r }

/-- `cfg.tach[ch] <- r`. -/
def State.setTach (s : State) (ch : Channel) (r : TachChannelConfig) : State := { s with tach := s.tach.set ch r }

/-- `cfg.cool[ch] <- d`. -/
def State.setCool (s : State) (ch : Channel) (d : Option CoolingDevice) : State := { s with cool := s.cool.set ch d }

/-! ### Completion -/

/-- Return one response word to the host (rule R42). -/
def State.respond (s : State) (r : ResponseWord) : State := { s with responses := s.responses ++ [r] }

/-- `complete(OK, AUX, VAL)` (rule R5). -/
def State.complete (s : State) (aux : BitVec 28) (val : Word) : State := s.respond (responseWord .ok aux val)

/-- TAKING AN EXCEPTION: `raise <Status>`, "`complete(<Status>, 0, 0)` with no further action" (rules R5, R123). It saves
nothing and redirects nothing, and there is no return from it: the block is ready for the next command (rules R130,
R131). -/
def State.raise (s : State) (st : Status) : State := s.respond (responseWord st 0#28 0#32)

/-! ### The Register Access Port -/

/-- The engine's answer to the next access: the next one listed, or a free one (rules R27, R32; log entry 3). -/
def State.nextAnswer (s : State) : EngineAnswer :=
  match s.answers with
  | a :: _ => a
  | []     => { faults := Config.freeAnswerFault s.draws, word := Config.freeAnswerWord s.draws }

/-- The state once that answer is used up. -/
def State.dropAnswer (s : State) : State :=
  match s.answers with
  | _ :: rest => { s with answers := rest }
  | []        => { s with draws := s.draws + 1 }

/-- The next access yields the port fault (rule R38): only where `PORT_FAULTS` is true, at the engine's choice. -/
def State.portFault (s : State) : Bool := s.params.portFaults && s.nextAnswer.faults

/-- Record an access (rules R32, R153). -/
def State.record (s : State) (a : PortAccess) : State := { s with trace := s.trace ++ [a] }

/-- What plain storage holds for a register; nothing for the volatile tach-status register (rule R33). -/
def State.stored (s : State) (ch : Channel) : RegKind → Option Word
  | .ctrl  => some s.regs[ch].ctrl
  | .duty  => some s.regs[ch].duty
  | .tctrl => some s.regs[ch].tctrl
  | .tsts  => none

/-- The registers of a channel with one of them written. -/
def ChannelRegs.put (r : ChannelRegs) (v : Word) : RegKind → ChannelRegs
  | .ctrl  => { r with ctrl := v }
  | .duty  => { r with duty := v }
  | .tctrl => { r with tctrl := v }
  | .tsts  => r

/-- Plain storage after a write of `v`. -/
def State.store (s : State) (ch : Channel) (k : RegKind) (v : Word) : State :=
  { s with regs := s.regs.set ch (s.regs[ch].put v k) }

/-- The value a read returns: under `PLAIN_STORAGE` what is stored, for every register but tach-status; else the
engine's word, any value (rules R32, R33). -/
def State.readValue (s : State) (ch : Channel) (k : RegKind) : Word :=
  if s.params.plainStorage then (s.stored ch k).getD s.nextAnswer.word else s.nextAnswer.word

/-- A read that has come back: the value, or nothing on the port fault; and the state after it. -/
structure ReadRun where
  value : Option Word
  state : State
deriving DecidableEq, Repr

/-- A sequence of accesses that has ended: whether all of it completed, and the state after it. -/
structure AccessRun where
  completed : Bool
  state     : State
deriving DecidableEq, Repr

/-- Go on with further accesses unless one has faulted: "the block then issues no further access of that command"
(rule R38). -/
def AccessRun.andThen (r : AccessRun) (more : State → AccessRun) : AccessRun :=
  if r.completed then more r.state else r

/-- `RegRead(off)` (rule R27). -/
def regRead (ch : Channel) (k : RegKind) (s : State) : ReadRun :=
  if s.portFault then
    { value := none, state := s.dropAnswer.record (.readFault (regOffset ch k)) }
  else
    { value := some (s.readValue ch k),
      state := s.dropAnswer.record (.read (regOffset ch k) (s.readValue ch k)) }

/-- `RegWrite(off, v)` (rule R28). A faulted write leaves any value in the register (rule R38, spec/93 U2): the
engine's word. -/
def regWrite (ch : Channel) (k : RegKind) (v : Word) (s : State) : AccessRun :=
  if s.portFault then
    { completed := false,
      state := (s.dropAnswer.record (.writeFault (regOffset ch k) v)).store ch k s.nextAnswer.word }
  else
    { completed := true, state := (s.dropAnswer.record (.write (regOffset ch k) v)).store ch k v }

/-- `RegUpdate(off, mask, v)` (rule R29): a read and then a write; no write if the read faults. -/
def regUpdate (ch : Channel) (k : RegKind) (mask v : Word) (s : State) : AccessRun :=
  match (regRead ch k s).value with
  | none     => { completed := false, state := (regRead ch k s).state }
  | some old => regWrite ch k ((old &&& ~~~mask) ||| (v &&& mask)) (regRead ch k s).state

/-- The end of a command that issued accesses (rules R38, R81): commit to the store and complete with `OK`, or commit
nothing and raise `BUS_FAULT`. -/
def AccessRun.finish (r : AccessRun) (commit : State → State) : State :=
  if r.completed then (commit r.state).complete 0#28 0#32 else r.state.raise .busFault

/-! ### Reset and the sequencer -/

/-- Reset of the block between commands (rule R140): the store to its reset state, the sequencer idle, and nothing else. -/
def State.blockReset (s : State) : State :=
  { s with
    pwm  := Vector.replicate 16 (PwmChannelConfig.ofDefaults s.params.defPwm)
    tach := Vector.replicate 16 (TachChannelConfig.ofDefaults s.params.defTach)
    cool := Vector.replicate 16 none }

/-- The state once the next input is taken. -/
def State.dropInput (s : State) : State := { s with inputs := s.inputs.tail }

/-- A word that spells no command: it "completes with status `ILLEGAL_COMMAND`, touches no state and issues no port
access" (rules R44, R46, R126). -/
def State.rejectWord (s : State) : State := s.raise .illegalCommand

/-- No input is pending: the run is over or the host is silent, and nothing is in flight (rules R15, R153). -/
def State.idle (s : State) : State := s

end Sys2Proof.Machine
end

