-- ==== Sys2Proof/Machine/Configure.lean ====
section
/-! DEFINITION. The configuration input commands: `CFG_FAILSAFE`, `CFG_FLAGS`, `CFG_COOL_CLEAR`, `CFG_COOL_LEVEL`
(rules R115 to R118). None of them issues a port access. -/

namespace Sys2Proof.Machine

/-- `CFG_FAILSAFE ch, enabled, edge_selection, point` (rule R115). -/
def execCfgFailsafe (ch : Channel) (enabled : Bool) (edge : EdgeSelection) (point : Byte) (s : State) :
    Host.Outcome State Fault Refusal :=
  .next ((s.setPwm ch
            { s.pwm[ch] with
              watchdogFailsafe := { enabled := enabled, edgeSelection := edge, failsafePoint := point } }).complete
          0#28 0#32)

/-- `CFG_FLAGS ch, duty_sync_disabled, output_inverted` (rule R116). -/
def execCfgFlags (ch : Channel) (dutySyncDisabled outputInverted : Bool) (s : State) :
    Host.Outcome State Fault Refusal :=
  .next ((s.setPwm ch
            { s.pwm[ch] with dutySyncDisabled := dutySyncDisabled, outputInverted := outputInverted }).complete
          0#28 0#32)

/-- `CFG_COOL_CLEAR ch` (rule R117). -/
def execCfgCoolClear (ch : Channel) (s : State) : Host.Outcome State Fault Refusal :=
  .next ((s.setCool ch none).complete 0#28 0#32)

/-- `CFG_COOL_LEVEL ch, level` (rule R118). -/
def execCfgCoolLevel (ch : Channel) (level : Byte) (s : State) : Host.Outcome State Fault Refusal :=
  .next (match s.cool[ch] with
    | none =>
        (s.setCool ch (some { pwmChannel := ch, levels := [level], currentState := 0 })).complete 0#28 0#32
    | some d =>
        if d.levels.length = Config.maxLevels then s.raise .outOfRange
        else (s.setCool ch (some { d with levels := d.levels ++ [level] })).complete 0#28 0#32)

end Sys2Proof.Machine
end

