-- ==== Sys2Proof/Machine/Resolver.lean ====
section
/-! DEFINITION. The Frequency Divider Resolver: the function `Resolve` (rules R60 to R62) and the command `RESOLVE`
(rule R63). -/

namespace Sys2Proof.Machine

/-- What `Resolve` returns (rule R60). -/
structure Resolution where
  coarse    : BitVec 4
  fine      : BitVec 8
  achieved  : Word
  exhausted : Bool
deriving DecidableEq, Repr

/-- `base = clk / 256`, the clock over `PERIOD_TICKS + 1` (rules R60, R61). -/
def resolverBase (clk : Word) : Nat := clk.toNat / (Config.periodTicks + 1)

/-- The frequency a divider pair achieves: `base / (2^coarse * (fine + 1))`, truncating (rules R60, R61). -/
def achievedAt (base coarse fine : Nat) : Nat := base / (2 ^ coarse * (fine + 1))

/-- The candidates in scan order: `coarse` ascending, then `fine` ascending (rule R60). -/
def scanOrder : List (Nat × Nat) :=
  (List.range Config.coarseCount).flatMap fun coarse => (List.range Config.fineCount).map fun fine => (coarse, fine)

/-- The first candidate whose frequency is strictly less than the target (rule R60). -/
def firstHit (base target : Nat) : Option (Nat × Nat) :=
  scanOrder.find? fun c => decide (achievedAt base c.1 c.2 < target)

/-- `Resolve(clk, target)` (rule R60); on exhaustion the last-scanned combination (rule R62). -/
def resolve (clk target : Word) : Resolution :=
  match firstHit (resolverBase clk) target.toNat with
  | some (coarse, fine) =>
      { coarse := BitVec.ofNat 4 coarse, fine := BitVec.ofNat 8 fine,
        achieved := BitVec.ofNat 32 (achievedAt (resolverBase clk) coarse fine), exhausted := false }
  | none =>
      { coarse := 15#4, fine := 255#8,
        achieved := BitVec.ofNat 32 (achievedAt (resolverBase clk) 15 255), exhausted := true }

/-- `RESOLVE target` (rules R63, R64). -/
def execResolve (target : Word) (s : State) : Host.Outcome State Fault Refusal :=
  let r := resolve s.params.inputClockHz target
  .next (s.complete (resolveAux r.coarse r.fine r.exhausted) r.achieved)

end Sys2Proof.Machine
end

