-- ==== Sys2Proof/Machine/Duty.lean ====
section
/-! DEFINITION. The Duty Cycle Programmer: the enable and disable steps, the full path `Program` and the fast path
(rules R72 to R77, R81), and the commands `ENABLE_PWM`, `SET_DUTY`, `SET_DUTY_FAST`, `GET_DUTY`. -/

namespace Sys2Proof.Machine

/-- `EnableStep(ch)` (rule R72). -/
def enableStep (ch : Channel) (s : State) : AccessRun := regUpdate ch .ctrl enableMask enableMask s

/-- `DisableStep(ch)` (rule R73). -/
def disableStep (ch : Channel) (s : State) : AccessRun := regUpdate ch .ctrl enableMask 0#32 s

/-- The accesses of the full path (rule R74): duty word, control word, then the enable step. -/
def writeWords (ch : Channel) (dw cw : Word) (s : State) : AccessRun :=
  (regWrite ch .duty dw s).andThen fun s1 => (regWrite ch .ctrl cw s1).andThen (enableStep ch)

/-- The accesses that program a channel for the record `r` and the duty `d` (rules R74, R75, R78): the disable path for
0, else the full path with the words of `r` and of the dividers resolved for its target. -/
def programAccesses (ch : Channel) (r : PwmChannelConfig) (d : Byte) (s : State) : AccessRun :=
  if d = 0#8 then disableStep ch s
  else
    let q := resolve s.params.inputClockHz r.targetFrequencyHz
    writeWords ch (dutyWord r d) (ctrlWord r q.coarse q.fine) s

/-- The cached divider fields written from a resolution (rule R9). -/
def PwmChannelConfig.cache (r : PwmChannelConfig) (q : Resolution) : PwmChannelConfig :=
  { r with achievedFrequencyHz := q.achieved, coarse := q.coarse, fine := q.fine }

/-- The record `Program(ch, d)` commits (rules R74, R75): the duty, and unless it is 0 the resolved dividers. -/
def PwmChannelConfig.programmed (r : PwmChannelConfig) (clk : Word) (d : Byte) : PwmChannelConfig :=
  if d = 0#8 then { r with dutyFallingPoint := 0#8 }
  else { r.cache (resolve clk r.targetFrequencyHz) with dutyFallingPoint := d }

/-- The commit of `Program(ch, d)` (rules R74, R75). -/
def State.commitProgram (s : State) (ch : Channel) (d : Byte) : State :=
  s.setPwm ch (s.pwm[ch].programmed s.params.inputClockHz d)

/-- `SET_DUTY ch, value` (rule R76). -/
def execSetDuty (ch : Channel) (value : Word) (s : State) : Host.Outcome State Fault Refusal :=
  let d := value.setWidth 8
  .next (if dutyInRange value then
           (programAccesses ch s.pwm[ch] d s).finish fun t => t.commitProgram ch d
         else s.raise .outOfRange)

/-- The accesses of `SET_DUTY_FAST` (rule R77): the disable step for 0; else the masked write of the falling-point byte,
and the enable step only if the stored duty was 0. -/
def fastAccesses (ch : Channel) (old d : Byte) (s : State) : AccessRun :=
  if d = 0#8 then disableStep ch s
  else
    (regUpdate ch .duty fallingMask (d.setWidth 32) s).andThen fun s1 =>
      if old = 0#8 then enableStep ch s1 else { completed := true, state := s1 }

/-- `SET_DUTY_FAST ch, value` (rule R77). -/
def execSetDutyFast (ch : Channel) (value : Word) (s : State) : Host.Outcome State Fault Refusal :=
  let d := value.setWidth 8
  .next (if dutyInRange value then
           (fastAccesses ch s.pwm[ch].dutyFallingPoint d s).finish fun t =>
             t.setPwm ch { t.pwm[ch] with dutyFallingPoint := d }
         else s.raise .outOfRange)

/-- `ENABLE_PWM ch, freq` (rule R78): the accesses of the programming procedure for the new target and the duty already
stored; the commit writes the target and the cache, also where that duty is 0. -/
def execEnablePwm (ch : Channel) (freq : Word) (s : State) : Host.Outcome State Fault Refusal :=
  let r := { s.pwm[ch] with targetFrequencyHz := freq }
  .next ((programAccesses ch r r.dutyFallingPoint s).finish fun t =>
           t.setPwm ch (r.cache (resolve s.params.inputClockHz freq)))

/-- `GET_DUTY ch` (rule R79). -/
def execGetDuty (ch : Channel) (s : State) : Host.Outcome State Fault Refusal :=
  .next (s.complete 0#28 (s.pwm[ch].dutyFallingPoint.setWidth 32))

end Sys2Proof.Machine
end

