-- ==== Sys2Proof/Machine/Cooling.lean ====
section
/-! DEFINITION. The Cooling State Machine: `GET_MAX_STATE`, `GET_CUR_STATE`, `SET_CUR_STATE` (rules R105 to R108). -/

namespace Sys2Proof.Machine

/-- `max_state = length(levels) - 1` (rule R13). -/
def CoolingDevice.maxState (d : CoolingDevice) : Nat := d.levels.length - 1

/-- `GET_MAX_STATE ch` (rule R106). -/
def execGetMaxState (ch : Channel) (s : State) : Host.Outcome State Fault Refusal :=
  .next (match s.cool[ch] with
    | none   => s.raise .noDevice
    | some d => s.complete 0#28 (BitVec.ofNat 32 d.maxState))

/-- `GET_CUR_STATE ch` (rule R107). -/
def execGetCurState (ch : Channel) (s : State) : Host.Outcome State Fault Refusal :=
  .next (match s.cool[ch] with
    | none   => s.raise .noDevice
    | some d => s.complete 0#28 (BitVec.ofNat 32 d.currentState))

/-- `SET_CUR_STATE ch, state` (rule R108). A state above `max_state` is one the table has no level for. -/
def execSetCurState (ch : Channel) (state : Word) (s : State) : Host.Outcome State Fault Refusal :=
  .next (match s.cool[ch] with
    | none   => s.raise .noDevice
    | some d =>
      match d.levels[state.toNat]? with
      | none      => s.raise .outOfRange
      | some duty =>
          (programAccesses ch s.pwm[ch] duty s).finish fun t =>
            (t.commitProgram ch duty).setCool ch (some { d with currentState := state.toNat }))

end Sys2Proof.Machine
end

