-- ==== Sys2Proof/Machine/Tach.lean ====
section
/-! DEFINITION. The tachometer: `ENABLE_TACH` (rule R92), the bounded status poll (rule R94), the conversion `Rpm`
(rule R95) and `GET_RPM` (rule R93). -/

namespace Sys2Proof.Machine

/-- `ENABLE_TACH ch, edge, debounce, ppr, exp, inv, threshold` (rule R92). -/
def execEnableTach (ch : Channel) (edge debounce : BitVec 2) (ppr : Byte) (exp : BitVec 4) (inv : Bool)
    (threshold : Word) (s : State) : Host.Outcome State Fault Refusal :=
  .next (match edgeModeOfCode edge, tachOperandsInRange ppr threshold with
    | some mode, true =>
        let r : TachChannelConfig :=
          { edgeMode := mode, debounceLevel := debounce, pulsesPerRevolution := ppr, dividerExponent := exp,
            inverseLimitComparison := inv, threshold := threshold, divider := channelDivider exp }
        (regWrite ch .tctrl (tachCtrlWord r) s).finish fun t => t.setTach ch r
    | _, _ => s.raise .outOfRange)

/-- `Rpm(clk, raw, divider, ppr)` (rule R95): the product is exact, the division comes first and truncates, and the
result is reduced modulo `2^32`. The spec keeps an unreachable test of `rv`. A product of 0, outside the rule's domain,
gives a free quotient (log entry 8). -/
def rpm (clk : Word) (raw : BitVec 20) (divider : Word) (ppr : Byte) : Word :=
  if raw = Config.tachSentinel then 0#32
  else
    let rv := raw.toNat + 1
    let eff := rv * divider.toNat * ppr.toNat
    if rv = 0 then 0#32
    else
      let q := if eff = 0 then (Config.quotientByZero clk).toNat else clk.toNat / eff
      BitVec.ofNat 32 (q * Config.rpmFactor)

/-- A poll that has ended: the value to convert with its `stale` bit, or nothing on the port fault; and the state. -/
structure PollRun where
  value : Option (Word × Bool)
  state : State
deriving DecidableEq, Repr

/-- Read the status register, and again at most `more` times until `FULL` is seen (rule R94). -/
def pollFor (ch : Channel) : (more : Nat) → State → PollRun
  | 0, s =>
    match (regRead ch .tsts s).value with
    | none   => { value := none, state := (regRead ch .tsts s).state }
    | some v => { value := some (v, !fullFlag v), state := (regRead ch .tsts s).state }
  | more + 1, s =>
    match (regRead ch .tsts s).value with
    | none   => { value := none, state := (regRead ch .tsts s).state }
    | some v =>
      if fullFlag v then { value := some (v, false), state := (regRead ch .tsts s).state }
      else pollFor ch more (regRead ch .tsts s).state

/-- `Poll(ch)`: one to three reads (rule R94). -/
def poll (ch : Channel) (s : State) : PollRun := pollFor ch (Config.pollBound - 1) s

/-- `GET_RPM ch` (rules R93, R96). -/
def execGetRpm (ch : Channel) (s : State) : Host.Outcome State Fault Refusal :=
  .next (match (poll ch s).value with
    | none => (poll ch s).state.raise .busFault
    | some (v, stale) =>
        (poll ch s).state.complete (staleAux stale)
          (rpm s.params.inputClockHz (rawField v) s.tach[ch].divider s.tach[ch].pulsesPerRevolution))

end Sys2Proof.Machine
end

