-- ==== Sys2Proof/Machine/Dispatch.lean ====
section
/-! DEFINITION. The meaning of every command, one arm per constructor of `Instr` (rule R49, step 4). -/

namespace Sys2Proof.Machine

def exec (i : Instr) (s : State) : Host.Outcome State Fault Refusal :=
  match i with
  | .resolve target => Sys2Proof.Machine.execResolve target s
  | .enablePwm ch freq => Sys2Proof.Machine.execEnablePwm ch freq s
  | .setDuty ch value => Sys2Proof.Machine.execSetDuty ch value s
  | .setDutyFast ch value => Sys2Proof.Machine.execSetDutyFast ch value s
  | .getDuty ch => Sys2Proof.Machine.execGetDuty ch s
  | .enableTach ch edge debounce ppr exp inv threshold => Sys2Proof.Machine.execEnableTach ch edge debounce ppr exp inv threshold s
  | .getRpm ch => Sys2Proof.Machine.execGetRpm ch s
  | .getMaxState ch => Sys2Proof.Machine.execGetMaxState ch s
  | .getCurState ch => Sys2Proof.Machine.execGetCurState ch s
  | .setCurState ch state => Sys2Proof.Machine.execSetCurState ch state s
  | .cfgFailsafe ch enabled edge point => Sys2Proof.Machine.execCfgFailsafe ch enabled edge point s
  | .cfgFlags ch dutySyncDisabled outputInverted => Sys2Proof.Machine.execCfgFlags ch dutySyncDisabled outputInverted s
  | .cfgCoolClear ch => Sys2Proof.Machine.execCfgCoolClear ch s
  | .cfgCoolLevel ch level => Sys2Proof.Machine.execCfgCoolLevel ch level s

end Sys2Proof.Machine
end

