-- ==== Sys2Proof/Machine/Step.lean ====
section
/-! DEFINITION. One step: the block takes the host's next input and runs it to completion (rules R15, R42, R49). -/

namespace Sys2Proof.Machine

/-- One step. "A model takes one command as one step of the block" (rule R42): the next command word is decoded and run,
or completes with `ILLEGAL_COMMAND`; a reset between commands resets the store; a reset during a command is refused
(spec/93 U11); with no input the block is idle. -/
def step (s : State) : Host.Outcome State Fault Refusal :=
  match s.inputs with
  | [] => .next s.idle
  | .reset :: _ => .next s.dropInput.blockReset
  | .resetDuring _ :: _ => .refused .resetMidCommand
  | .command w :: _ =>
    match decode w with
    | .ok i    => exec i s.dropInput
    | .error _ => .next s.dropInput.rejectWord

/-- The command word that the opcode table numbers as `w`, presented by the host as its next input (rules R15, R42:
commands are presented, not fetched). -/
def State.withFetchWord (s : State) (nbits w : Nat) : State :=
  { s with inputs := .command (BitVec.ofNat 64 (w % 2 ^ nbits)) :: s.inputs }

end Sys2Proof.Machine
end

