-- ==== Sys2Proof/Machine/Text.lean ====
section
/-! DEFINITION. The textual form of a command (rule R47): the lower-case mnemonic, then the channel and the operands,
separated by commas, numbers in decimal. -/

namespace Sys2Proof.Machine

/-- The lower-case mnemonic of rule R47. -/
def mnemonicText : Opcode → String
  | .resolve      => "resolve"
  | .enablePwm    => "enable_pwm"
  | .setDuty      => "set_duty"
  | .setDutyFast  => "set_duty_fast"
  | .getDuty      => "get_duty"
  | .enableTach   => "enable_tach"
  | .getRpm       => "get_rpm"
  | .getMaxState  => "get_max_state"
  | .getCurState  => "get_cur_state"
  | .setCurState  => "set_cur_state"
  | .cfgFailsafe  => "cfg_failsafe"
  | .cfgFlags     => "cfg_flags"
  | .cfgCoolClear => "cfg_cool_clear"
  | .cfgCoolLevel => "cfg_cool_level"

/-- A Boolean operand: 0 or 1 (rule R47). -/
def boolText (b : Bool) : String := if b then "1" else "0"

/-- The spelling of an `edge_mode` code; code 3 has none (rule R47). -/
def edgeModeText (c : BitVec 2) : Option String :=
  if c = 0#2 then some "f2f" else if c = 1#2 then some "r2r" else if c = 2#2 then some "both" else none

/-- The spelling of an `edge_selection` (rule R47). -/
def edgeSelectionText : EdgeSelection → String
  | .rising  => "rising"
  | .falling => "falling"

/-- The operands of a command as rule R47 orders them; none where an operand has no spelling. -/
def operandTexts : Instr → Option (List String)
  | .resolve target => some [toString target.toNat]
  | .enablePwm ch freq => some [toString ch.val, toString freq.toNat]
  | .setDuty ch value => some [toString ch.val, toString value.toNat]
  | .setDutyFast ch value => some [toString ch.val, toString value.toNat]
  | .getDuty ch => some [toString ch.val]
  | .enableTach ch edge debounce ppr exp inv threshold =>
      (edgeModeText edge).map fun e =>
        [toString ch.val, e, toString debounce.toNat, toString ppr.toNat, toString exp.toNat, boolText inv,
         toString threshold.toNat]
  | .getRpm ch => some [toString ch.val]
  | .getMaxState ch => some [toString ch.val]
  | .getCurState ch => some [toString ch.val]
  | .setCurState ch state => some [toString ch.val, toString state.toNat]
  | .cfgFailsafe ch enabled edge point =>
      some [toString ch.val, boolText enabled, edgeSelectionText edge, toString point.toNat]
  | .cfgFlags ch dutySyncDisabled outputInverted =>
      some [toString ch.val, boolText dutySyncDisabled, boolText outputInverted]
  | .cfgCoolClear ch => some [toString ch.val]
  | .cfgCoolLevel ch level => some [toString ch.val, toString level.toNat]

/-- The textual form of a command (rule R47). -/
def commandText (i : Instr) : Option String :=
  (operandTexts i).map fun ops => mnemonicText i.opcode ++ " " ++ ", ".intercalate ops

end Sys2Proof.Machine
end

