-- ==== Sys2Proof/Safety.lean ====
section
/-! DEFINITION. What the claims speak of: the invariants the spec gives the store, the port trace and the responses, and
the words for what a command leaves alone. A run is safe when every step answers a next state and keeps `State.Inv`. -/

namespace Sys2Proof.Machine

/-! ### Invariants of the store -/

/-- The constraint of rule R4 on `DEF_TACH`: `pulses_per_revolution >= 1`, every field in its range. -/
def ParamsLegal (p : Params) : Prop :=
  1 ≤ p.defTach.pulsesPerRevolution.toNat ∧ p.defTach.threshold.toNat ≤ 0xFFFFF

/-- The invariants of a tachometer record (rules R11, R12): at least one pulse, the divider the power of 4 its exponent
gives, the threshold in 20 bits. -/
def TachLegal (r : TachChannelConfig) : Prop :=
  1 ≤ r.pulsesPerRevolution.toNat ∧ r.divider.toNat = 4 ^ r.dividerExponent.toNat ∧ r.threshold.toNat ≤ 0xFFFFF

/-- The invariants of a cooling slot (rule R13): the device governs the slot's own channel, has 1 to 256 levels, and its
state is one of them. -/
def CoolLegal (ch : Channel) (slot : Option CoolingDevice) : Prop :=
  ∀ d, slot = some d → d.pwmChannel = ch ∧ 1 ≤ d.levels.length ∧ d.levels.length ≤ 256 ∧ d.currentState < d.levels.length

/-- The Channel Configuration Store is legal. -/
def StoreLegal (s : State) : Prop :=
  ParamsLegal s.params ∧ (∀ ch : Channel, TachLegal s.tach[ch]) ∧ ∀ ch : Channel, CoolLegal ch s.cool[ch]

/-- The cache invariant of rule R9 for a channel: the cached fields are what `Resolve` gives for the stored target. -/
def CacheValid (s : State) (ch : Channel) : Prop :=
  let q := resolve s.params.inputClockHz s.pwm[ch].targetFrequencyHz
  s.pwm[ch].coarse = q.coarse ∧ s.pwm[ch].fine = q.fine ∧ s.pwm[ch].achievedFrequencyHz = q.achieved

/-- The invariant of rule R10 (b) for a channel: clock and pin enables both clear when the stored duty is 0, both set
otherwise. It is a claim about plain storage. -/
def EnablesMatchDuty (s : State) (ch : Channel) : Prop :=
  s.regs[ch].ctrl &&& 0x00011000#32 = if s.pwm[ch].dutyFallingPoint = 0#8 then 0#32 else 0x00011000#32

/-! ### Invariants of what is observable -/

/-- The offset of an access. -/
def PortAccess.offset : PortAccess → Nat
  | .read off _ => off
  | .write off _ => off
  | .readFault off => off
  | .writeFault off _ => off

/-- The access is a write, completed or not. -/
def PortAccess.isWrite : PortAccess → Bool
  | .read _ _ => false
  | .write _ _ => true
  | .readFault _ => false
  | .writeFault _ _ => true

/-- The access yielded the port fault. -/
def PortAccess.faulted : PortAccess → Bool
  | .read _ _ => false
  | .write _ _ => false
  | .readFault _ => true
  | .writeFault _ _ => true

/-- The accesses the block may issue: offsets `0x000 .. 0x0FC`, multiples of 4 (rules R26, R31); the tach-status register
is never written and the tach-control register never read (rules R20, R21). -/
def AccessLegal (a : PortAccess) : Prop :=
  a.offset ≤ 0x0FC ∧ a.offset % 4 = 0 ∧ (a.isWrite = true → a.offset % 0x10 ≠ 0xC) ∧
    (a.isWrite = false → a.offset % 0x10 ≠ 0x8)

/-- The response words the block may return (rule R45): statuses 5 to 15 never, and `AUX = VAL = 0` unless `OK`. -/
def ResponseLegal (r : ResponseWord) : Prop :=
  (statusField r).toNat ≤ 4 ∧ (statusField r ≠ 0#4 → auxField r = 0#28 ∧ valField r = 0#32)

/-- The invariant of the whole machine. -/
def State.Inv (s : State) : Prop :=
  StoreLegal s ∧ (∀ a ∈ s.trace, AccessLegal a) ∧ ∀ r ∈ s.responses, ResponseLegal r

/-! ### What a command leaves alone -/

/-- `CH` of a command: the PWM channel, tachometer channel or cooling slot it is about; `RESOLVE` has none (rule R43). -/
def channelOf : Instr → Option Channel
  | .resolve _ => none
  | .enablePwm ch _ => some ch
  | .setDuty ch _ => some ch
  | .setDutyFast ch _ => some ch
  | .getDuty ch => some ch
  | .enableTach ch _ _ _ _ _ _ => some ch
  | .getRpm ch => some ch
  | .getMaxState ch => some ch
  | .getCurState ch => some ch
  | .setCurState ch _ => some ch
  | .cfgFailsafe ch _ _ _ => some ch
  | .cfgFlags ch _ _ => some ch
  | .cfgCoolClear ch => some ch
  | .cfgCoolLevel ch _ => some ch

/-- The three arrays of the store are as before. -/
def KeepsStore (s t : State) : Prop := t.pwm = s.pwm ∧ t.tach = s.tach ∧ t.cool = s.cool

/-- The parameters and the host's further inputs are as before. -/
def KeepsSurroundings (s t : State) : Prop := t.params = s.params ∧ t.inputs = s.inputs

/-- No port access was issued, and no engine register changed. -/
def IssuesNothing (s t : State) : Prop :=
  t.trace = s.trace ∧ t.regs = s.regs ∧ t.answers = s.answers ∧ t.draws = s.draws

/-- The port accesses issued are exactly `l`, in this order. -/
def Issues (s t : State) (l : List PortAccess) : Prop := t.trace = s.trace ++ l

/-- The one response returned is `r`. -/
def Returns (s t : State) (r : ResponseWord) : Prop := t.responses = s.responses ++ [r]

/-- None of the next `n` port accesses faults (rule R38): always so where `PORT_FAULTS` is false. -/
def NoFaultAhead : Nat → State → Prop
  | 0, _ => True
  | n + 1, s => s.portFault = false ∧ NoFaultAhead n s.dropAnswer

end Sys2Proof.Machine
end

