-- ==== Sys2Proof/Certificates/Slice0/Obligations.lean ====
section
/-! DEFINITION. The statements about the machine that are put to the provers; OBLIGATIONS.json says of each which rules of
spec/ it formalises. Offsets, masks and response words are written out as the spec writes them. -/

open Sys2Proof Sys2Proof.Machine

/-! ### Encoding -/

/-- Rules R40, R41, R43: no bit of any operand of any command is dropped by the command word. -/
def Obligations.DecodeOfEncodeIsTheCommand : Prop :=
  ∀ i : Instr, decode (encode i) = .ok i

/-- Rules R40, R43, R44: a word that spells a command is that command's only spelling. -/
def Obligations.EncodeOfDecodeIsTheWord : Prop :=
  ∀ (w : CommandWord) (i : Instr), decode w = .ok i → encode i = w

/-- Rule R44: "a word matches a row if and only if it is a legal spelling of that command"; and every word decoded is of
some row. -/
def Obligations.DecodesExactlyTheTableRows : Prop :=
  (∀ row ∈ opcodeTable, ∀ w : CommandWord,
      row.matchesWord w = true ↔ ∃ i, decode w = .ok i ∧ i.opcode = row.op) ∧
  ∀ (w : CommandWord) (i : Instr), decode w = .ok i → ∃ row ∈ opcodeTable, row.op = i.opcode

/-- The opcode table is unambiguous: no word matches two rows. -/
def Obligations.TableRowsAreDisjoint : Prop :=
  ∀ w : CommandWord, ∀ row₁ ∈ opcodeTable, ∀ row₂ ∈ opcodeTable,
    row₁.matchesWord w = true → row₂.matchesWord w = true → row₁ = row₂

/-- The worked encodings of spec/30 section 6 decode to the commands they stand for. -/
def Obligations.WorkedEncodingsDecode : Prop :=
  decode 0x01000000000061A8#64 = .ok (.resolve 25000#32) ∧
  decode 0x02300000000061A8#64 = .ok (.enablePwm 3 25000#32) ∧
  decode 0x1030000000000080#64 = .ok (.setDuty 3 128#32) ∧
  decode 0x1130000000000040#64 = .ok (.setDutyFast 3 64#32) ∧
  decode 0x12F0000000000000#64 = .ok (.getDuty 15) ∧
  decode 0x2051EFFF000FFFFF#64 = .ok (.enableTach 5 2#2 3#2 255#8 15#4 true 0xFFFFF#32) ∧
  decode 0x3230000000000002#64 = .ok (.setCurState 3 2#32) ∧
  decode 0x403000000000030A#64 = .ok (.cfgFailsafe 3 true .falling 0x0A#8)

/-! ### The step -/

/-- Rules R15, R42, R49: a step takes the host's next input: a word that spells a command is run by `exec`, a word that
spells none is rejected, and without an input nothing happens (the list of inputs is the model's form, log entry 5); a
reset during a command is refused (spec/93 U11, log entry 6). -/
def Obligations.StepRunsTheNextInput : Prop :=
  (∀ (s : State) (w : CommandWord) (rest : List HostInput) (i : Instr),
      s.inputs = .command w :: rest → decode w = .ok i → step s = exec i { s with inputs := rest }) ∧
  (∀ (s : State) (w : CommandWord) (rest : List HostInput) (e : DecodeReject),
      s.inputs = .command w :: rest → decode w = .error e →
      step s = .next { s with inputs := rest, responses := s.responses ++ [0x3000000000000000#64] }) ∧
  (∀ s : State, s.inputs = [] → step s = .next s) ∧
  (∀ (s : State) (w : CommandWord) (rest : List HostInput),
      s.inputs = .resetDuring w :: rest → step s = .refused .resetMidCommand)

/-- Rule R126 (with R41, R44): `ILLEGAL_COMMAND` exactly for a word whose `OPC` is not assigned or that has a must-be-0
bit set, with "no state change, no port access". -/
def Obligations.IllegalWordsAndOnlyTheyAreRejected : Prop :=
  ∀ (s : State) (w : CommandWord) (rest : List HostInput), s.inputs = .command w :: rest →
    ∃ t r, step s = .next t ∧ Returns s t r ∧
      (((∀ op : Opcode, op.code ≠ opcField w) ∨ ∃ op : Opcode, op.code = opcField w ∧ w &&& op.mustBeZero ≠ 0#64) →
        r = 0x3000000000000000#64 ∧ KeepsStore s t ∧ IssuesNothing s t ∧ t.params = s.params ∧ t.inputs = rest) ∧
      ((∃ op : Opcode, op.code = opcField w ∧ w &&& op.mustBeZero = 0#64) → r.extractLsb' 60 4 ≠ 3#4)

/-- Rules R42, R152: every command runs to completion and returns exactly one response word, after at most four port
accesses; the parameters stay and the rest of the host's inputs waits. -/
def Obligations.EveryCommandReturnsOneResponse : Prop :=
  ∀ (s : State) (w : CommandWord) (rest : List HostInput), s.inputs = .command w :: rest →
    ∃ t r l, step s = .next t ∧ Returns s t r ∧ Issues s t l ∧ l.length ≤ 4 ∧ t.params = s.params ∧ t.inputs = rest

/-- Rules R124 to R127, and R130, which the spec marks as derived from them: a command that completes with a status other
than `OK` leaves the store exactly as it was; unless the status is `BUS_FAULT` it has also issued no port access. -/
def Obligations.FailedCommandLeavesTheStore : Prop :=
  ∀ (s t : State) (w : CommandWord) (rest : List HostInput) (r : ResponseWord), s.inputs = .command w :: rest →
    step s = .next t → Returns s t r → r.extractLsb' 60 4 ≠ 0#4 →
    KeepsStore s t ∧ r.extractLsb' 0 60 = 0#60 ∧ (r.extractLsb' 60 4 ≠ 2#4 → IssuesNothing s t)

/-- Rules R38, R125: `BUS_FAULT` is returned exactly when an access faulted, the faulted access is the last one the
command issued, and none faults where `PORT_FAULTS` is false. -/
def Obligations.BusFaultExactlyOnAFaultedAccess : Prop :=
  ∀ (s t : State) (w : CommandWord) (rest : List HostInput) (r : ResponseWord) (l : List PortAccess),
    s.inputs = .command w :: rest → step s = .next t → Returns s t r → Issues s t l →
    (r.extractLsb' 60 4 = 2#4 ↔ ∃ a ∈ l, a.faulted = true) ∧
    (∀ a ∈ l.dropLast, a.faulted = false) ∧
    (s.params.portFaults = false → ∀ a ∈ l, a.faulted = false)

/-- Rule R140: a reset of the block puts the store into its reset state and does nothing else; the engine's registers are
left alone and no access is issued. -/
def Obligations.BlockResetRestoresTheStore : Prop :=
  ∀ (s : State) (rest : List HostInput), s.inputs = .reset :: rest →
    ∃ t, step s = .next t ∧ IssuesNothing s t ∧ t.params = s.params ∧ t.inputs = rest ∧ t.responses = s.responses ∧
      t.pwm = (State.resetWith s.params s.regs).pwm ∧ t.tach = (State.resetWith s.params s.regs).tach ∧
      t.cool = (State.resetWith s.params s.regs).cool

/-- Rule R24: after reset every record holds the parameter's fields, the cached PWM fields are 0, the divider is
`2^(2·exponent)`, and every cooling slot is absent; no access has been issued. -/
def Obligations.ResetStoreHoldsTheDefaults : Prop :=
  ∀ (p : Params) (regs : Vector ChannelRegs 16) (ch : Channel),
    (State.resetWith p regs).pwm[ch] =
      { targetFrequencyHz := p.defPwm.targetFrequencyHz, achievedFrequencyHz := 0#32, coarse := 0#4, fine := 0#8,
        dutyFallingPoint := p.defPwm.dutyFallingPoint, watchdogFailsafe := p.defPwm.watchdogFailsafe,
        dutySyncDisabled := p.defPwm.dutySyncDisabled, outputInverted := p.defPwm.outputInverted } ∧
    (State.resetWith p regs).tach[ch] =
      { edgeMode := p.defTach.edgeMode, debounceLevel := p.defTach.debounceLevel,
        pulsesPerRevolution := p.defTach.pulsesPerRevolution, dividerExponent := p.defTach.dividerExponent,
        inverseLimitComparison := p.defTach.inverseLimitComparison, threshold := p.defTach.threshold,
        divider := BitVec.ofNat 32 (2 ^ (2 * p.defTach.dividerExponent.toNat)) } ∧
    (State.resetWith p regs).cool[ch] = none ∧
    (State.resetWith p regs).trace = [] ∧ (State.resetWith p regs).regs = regs

/-! ### Invariants -/

/-- The machine's invariant holds after reset, for every legal parameter and every content of the engine's registers,
and in `State.reset`, whose parameters are the model's choice (log entries 1 and 2). -/
def Obligations.ResetMeetsTheInvariant : Prop :=
  (∀ (p : Params) (regs : Vector ChannelRegs 16), ParamsLegal p → (State.resetWith p regs).Inv) ∧ State.reset.Inv

/-- Rules R11, R12, R13, R20, R21, R26, R31, R45: every step keeps the invariant: the store stays legal, every access has a
legal offset and direction, every response word is legal. -/
def Obligations.StepKeepsTheInvariant : Prop :=
  ∀ s t : State, s.Inv → step s = .next t → t.Inv

/-- Rule R10 (b), as an invariant: under `PLAIN_STORAGE`, once a channel's enables match its stored duty, every command
word keeps them so, on this channel or any other, where no access faults. -/
def Obligations.CommandsKeepEnablesMatchingDuty : Prop :=
  ∀ (s t : State) (w : CommandWord) (rest : List HostInput) (ch : Channel),
    s.params.plainStorage = true → NoFaultAhead 4 s → s.inputs = .command w :: rest →
    EnablesMatchDuty s ch → step s = .next t → EnablesMatchDuty t ch

/-- Rule R10 (b): `SET_DUTY`, `ENABLE_PWM` and `SET_CUR_STATE`, once successful, have made the enables match the duty, from
any state; `SET_DUTY_FAST` has where it disabled or re-enabled the channel. -/
def Obligations.ProgrammingMakesEnablesMatchDuty : Prop :=
  ∀ (s t : State) (ch : Channel) (v : Word) (i : Instr), s.params.plainStorage = true →
    (i = .setDuty ch v ∨ i = .enablePwm ch v ∨ i = .setCurState ch v ∨
      (i = .setDutyFast ch v ∧ (v = 0#32 ∨ s.pwm[ch].dutyFallingPoint = 0#8))) →
    exec i s = .next t → Returns s t 0#64 → EnablesMatchDuty t ch

/-- Rules R77, R146 against R10 (b): a successful `SET_DUTY_FAST` on a channel whose stored duty was nonzero and that no full
path has programmed issues no enable, so R10 (b) does not hold after it. The spec marks R10 (b) as its own inference; the
model follows R77 (log entry 10). -/
def Obligations.FastPathAloneCanLeaveEnablesClear : Prop :=
  ∀ (p : Params), p.plainStorage = true → p.portFaults = false → p.defPwm.dutyFallingPoint ≠ 0#8 →
    ∃ (regs : Vector ChannelRegs 16) (t : State),
      exec (.setDutyFast 0 64#32) (State.resetWith p regs) = .next t ∧
        t.responses = [0#64] ∧ ¬ EnablesMatchDuty t 0

/-- Rule R9: "After any command that wrote them, the cache invariant holds": established by `ENABLE_PWM`, by a nonzero
`SET_DUTY` and by a `SET_CUR_STATE` to a nonzero level, and kept by every command. -/
def Obligations.CacheIsValidOnceWritten : Prop :=
  (∀ (s t : State) (w : CommandWord) (rest : List HostInput) (ch : Channel),
      s.inputs = .command w :: rest → CacheValid s ch → step s = .next t → CacheValid t ch) ∧
  (∀ (s t : State) (ch : Channel) (freq : Word),
      exec (.enablePwm ch freq) s = .next t → Returns s t 0#64 → CacheValid t ch) ∧
  (∀ (s t : State) (ch : Channel) (v : Word), v ≠ 0#32 →
      exec (.setDuty ch v) s = .next t → Returns s t 0#64 → CacheValid t ch) ∧
  (∀ (s t : State) (ch : Channel) (v : Word), t.pwm[ch].dutyFallingPoint ≠ 0#8 →
      exec (.setCurState ch v) s = .next t → Returns s t 0#64 → CacheValid t ch)

/-! ### Whole-machine rules -/

/-- Rules R17, R23: a command changes no record, slot or engine register of a channel other than its own. Where an access
faults, the clause on the engine's registers rests on log entry 9 (DESIGN CHOICE, unsafe): a faulted write changes no
register but the one it addressed. -/
def Obligations.CommandTouchesOnlyItsChannel : Prop :=
  ∀ (i : Instr) (s t : State) (c : Channel), exec i s = .next t → channelOf i ≠ some c →
    t.pwm[c] = s.pwm[c] ∧ t.tach[c] = s.tach[c] ∧ t.cool[c] = s.cool[c] ∧ t.regs[c] = s.regs[c]

/-- Rule R23 (column "store fields written") with R8, R11 and R13: the only commands that change each field of the store. -/
def Obligations.StoreFieldsAreWrittenOnlyByTheirCommands : Prop :=
  ∀ (i : Instr) (s t : State) (c : Channel), exec i s = .next t →
    (t.pwm[c].targetFrequencyHz ≠ s.pwm[c].targetFrequencyHz → i.opcode = .enablePwm) ∧
    (t.pwm[c].dutyFallingPoint ≠ s.pwm[c].dutyFallingPoint →
      i.opcode = .setDuty ∨ i.opcode = .setDutyFast ∨ i.opcode = .setCurState) ∧
    (t.pwm[c].coarse ≠ s.pwm[c].coarse ∨ t.pwm[c].fine ≠ s.pwm[c].fine ∨
        t.pwm[c].achievedFrequencyHz ≠ s.pwm[c].achievedFrequencyHz →
      i.opcode = .setDuty ∨ i.opcode = .enablePwm ∨ i.opcode = .setCurState) ∧
    (t.pwm[c].watchdogFailsafe ≠ s.pwm[c].watchdogFailsafe → i.opcode = .cfgFailsafe) ∧
    (t.pwm[c].dutySyncDisabled ≠ s.pwm[c].dutySyncDisabled ∨ t.pwm[c].outputInverted ≠ s.pwm[c].outputInverted →
      i.opcode = .cfgFlags) ∧
    (t.tach[c] ≠ s.tach[c] → i.opcode = .enableTach) ∧
    (t.cool[c] ≠ s.cool[c] → i.opcode = .setCurState ∨ i.opcode = .cfgCoolClear ∨ i.opcode = .cfgCoolLevel)

/-- Rules R7, R27, R34: without port faults the engine cannot influence the store, and it cannot influence the response of
any command but `GET_RPM`: two machines that differ only in the engine stay alike. -/
def Obligations.EngineCannotInfluenceTheStore : Prop :=
  ∀ (s₁ s₂ t₁ t₂ : State) (w : CommandWord) (rest : List HostInput),
    s₂.params = s₁.params → KeepsStore s₁ s₂ → s₁.params.portFaults = false →
    s₁.inputs = .command w :: rest → s₂.inputs = .command w :: rest →
    step s₁ = .next t₁ → step s₂ = .next t₂ →
    KeepsStore t₁ t₂ ∧ ((opcField w ≠ 0x21#8) → ∃ r, Returns s₁ t₁ r ∧ Returns s₂ t₂ r)

/-! ### Resolver -/

/-- Rules R60, R62: the result is the first candidate in scan order (`coarse` ascending, then `fine` ascending) whose
achieved frequency is strictly less than the target, and the maximal-divisor combination when there is none. -/
def Obligations.ResolveIsTheFirstHitOrTheLastCandidate : Prop :=
  ∀ clk target : Word,
    let base := clk.toNat / 256
    let q := resolve clk target
    (q.exhausted = false →
      q.achieved.toNat = base / (2 ^ q.coarse.toNat * (q.fine.toNat + 1)) ∧ q.achieved.toNat < target.toNat ∧
      ∀ c f : Nat, c < 16 → f < 256 → (c < q.coarse.toNat ∨ c = q.coarse.toNat ∧ f < q.fine.toNat) →
        target.toNat ≤ base / (2 ^ c * (f + 1))) ∧
    (q.exhausted = true →
      q.coarse = 15#4 ∧ q.fine = 255#8 ∧ q.achieved.toNat = base / 2 ^ 23 ∧
      ∀ c f : Nat, c < 16 → f < 256 → target.toNat ≤ base / (2 ^ c * (f + 1)))

/-- Rule R65, which the spec marks as derived: the closed form. -/
def Obligations.ResolveHasTheClosedForm : Prop :=
  ∀ clk target : Word,
    let base := clk.toNat / 256
    let q := resolve clk target
    (∀ c : Nat, c < 16 → target.toNat ≠ 0 → base / (target.toNat * 2 ^ c) ≤ 255 →
      (∀ c' : Nat, c' < c → 255 < base / (target.toNat * 2 ^ c')) →
      q.coarse.toNat = c ∧ q.fine.toNat = base / (target.toNat * 2 ^ c) ∧
      q.achieved.toNat = base / (2 ^ c * (base / (target.toNat * 2 ^ c) + 1)) ∧ q.exhausted = false) ∧
    ((target.toNat = 0 ∨ ∀ c : Nat, c < 16 → 255 < base / (target.toNat * 2 ^ c)) →
      q.coarse.toNat = 15 ∧ q.fine.toNat = 255 ∧ q.achieved.toNat = base / 2 ^ 23 ∧ q.exhausted = true)

/-- Rules R65, R148, which the spec marks as derived: exhaustion happens exactly for a target of 0 or a base of at least
`target · 2^23`; below a clock of `2^31` only for a target of 0. -/
def Obligations.ExhaustionCondition : Prop :=
  ∀ clk target : Word,
    ((resolve clk target).exhausted = true ↔ target.toNat = 0 ∨ target.toNat * 2 ^ 23 ≤ clk.toNat / 256) ∧
    (clk.toNat < 2 ^ 31 → ((resolve clk target).exhausted = true ↔ target.toNat = 0))

/-- Rule R60, in the part the spec marks as derived: the first hit in scan order is the hit with the smallest divisor of the
whole search space. -/
def Obligations.ResolveHitHasTheSmallestDivisor : Prop :=
  ∀ (clk target : Word) (c f : Nat), (resolve clk target).exhausted = false → c < 16 → f < 256 →
    clk.toNat / 256 / (2 ^ c * (f + 1)) < target.toNat →
    2 ^ (resolve clk target).coarse.toNat * ((resolve clk target).fine.toNat + 1) ≤ 2 ^ c * (f + 1)

/-- Rules R63, R64: `RESOLVE` returns `achieved` in `VAL` and `exhausted`, `coarse`, `fine` in `AUX`, for every target, and
does nothing else. -/
def Obligations.ResolveCommandReturnsTheResolution : Prop :=
  ∀ (target : Word) (s : State), ∃ t,
    let q := resolve s.params.inputClockHz target
    exec (.resolve target) s = .next t ∧
      Returns s t (0#4 ++ (0#15 ++ BitVec.ofBool q.exhausted ++ q.coarse ++ q.fine) ++ q.achieved) ∧
      KeepsStore s t ∧ IssuesNothing s t ∧ KeepsSurroundings s t

/-! ### The words -/

/-- Rule R70 (fields of R19): the duty word, field by field, for `d` in `1 .. 255`. -/
def Obligations.DutyWordFields : Prop :=
  ∀ (r : PwmChannelConfig) (d : Byte), d ≠ 0#8 →
    (dutyWord r d).extractLsb' 24 8 = 255#8 ∧
    (dutyWord r d).extractLsb' 16 8 =
      (if r.watchdogFailsafe.enabled then r.watchdogFailsafe.failsafePoint else 0#8) ∧
    (dutyWord r d).extractLsb' 8 8 = 0#8 ∧
    (dutyWord r d).extractLsb' 0 8 = (if d = 255#8 then 0#8 else d)

/-- Rule R71 (fields of R18): the control word, field by field; it never carries the enables, and its unused bits are 0. -/
def Obligations.ControlWordFields : Prop :=
  ∀ (r : PwmChannelConfig) (coarse : BitVec 4) (fine : BitVec 8),
    (ctrlWord r coarse fine).extractLsb' 0 8 = fine ∧
    (ctrlWord r coarse fine).extractLsb' 8 4 = coarse ∧
    (ctrlWord r coarse fine).extractLsb' 12 6 = 0#6 ∧
    (ctrlWord r coarse fine).getLsbD 18 = r.watchdogFailsafe.enabled ∧
    (ctrlWord r coarse fine).getLsbD 19 =
      (r.watchdogFailsafe.enabled && decide (r.watchdogFailsafe.edgeSelection = .falling)) ∧
    (ctrlWord r coarse fine).extractLsb' 20 12 = 0#12

/-- Rule R90 (fields of R20): the tach-control word, field by field. -/
def Obligations.TachControlWordFields : Prop :=
  ∀ r : TachChannelConfig,
    (tachCtrlWord r).extractLsb' 0 20 = r.threshold.extractLsb' 0 20 ∧
    (tachCtrlWord r).extractLsb' 20 4 = r.dividerExponent ∧
    (tachCtrlWord r).extractLsb' 24 2 =
      (match r.edgeMode with | .fallingToFalling => 0#2 | .risingToRising => 1#2 | .both => 2#2) ∧
    (tachCtrlWord r).extractLsb' 26 2 = r.debounceLevel ∧
    (tachCtrlWord r).getLsbD 28 = true ∧ (tachCtrlWord r).getLsbD 29 = false ∧
    (tachCtrlWord r).getLsbD 30 = r.inverseLimitComparison ∧ (tachCtrlWord r).getLsbD 31 = false

/-- Rule R91: the channel divider is `2^(2·exponent)`. -/
def Obligations.ChannelDividerIsAPowerOfFour : Prop :=
  ∀ exponent : BitVec 4, (channelDivider exponent).toNat = 2 ^ (2 * exponent.toNat)

/-! ### The Register Access Port -/

/-- Rule R33: under `PLAIN_STORAGE` a read of a control, duty or tach-control register returns the last word written to it;
a write to any other register of any channel in between does not matter. -/
def Obligations.PlainStorageReadsBackTheLastWrite : Prop :=
  ∀ (s : State) (ch c : Channel) (k k' : RegKind) (v v' : Word), s.params.plainStorage = true → NoFaultAhead 3 s →
    k ≠ .tsts → (c ≠ ch ∨ k' ≠ k) →
    (regRead ch k (regWrite ch k v s).state).value = some v ∧
    (regRead ch k (regWrite c k' v' (regWrite ch k v s).state).state).value = some v

/-- Rules R21, R32, R33: a read of the tach-status register returns whatever word the engine answers, whatever was read or
written before; without `PLAIN_STORAGE` so does a read of any register. -/
def Obligations.EngineAnswersReadsWithAnyWord : Prop :=
  ∀ (s : State) (ch : Channel) (k : RegKind) (v : Word) (rest : List EngineAnswer),
    s.answers = { faults := false, word := v } :: rest → (k = .tsts ∨ s.params.plainStorage = false) →
    (regRead ch k s).value = some v ∧ (regRead ch k s).state.answers = rest ∧
      Issues s (regRead ch k s).state [.read (regOffset ch k) v]

/-- Rule R29: `RegUpdate` is one read and then one write of the value read with the masked bits replaced; "If the read faults,
the write is not issued". -/
def Obligations.RegUpdateReadsThenWrites : Prop :=
  ∀ (s : State) (ch : Channel) (k : RegKind) (mask v : Word),
    (NoFaultAhead 2 s → ∃ old, (regUpdate ch k mask v s).completed = true ∧
      Issues s (regUpdate ch k mask v s).state
        [.read (regOffset ch k) old, .write (regOffset ch k) ((old &&& ~~~mask) ||| (v &&& mask))]) ∧
    (s.portFault = true → (regUpdate ch k mask v s).completed = false ∧
      Issues s (regUpdate ch k mask v s).state [.readFault (regOffset ch k)])

/-! ### Duty commands -/

/-- Rules R74, R76: `SET_DUTY` with a value in `1 .. 255`: the four accesses in order, the committed record, the engine's
registers, and nothing else; `x` is the value the read returns, the control word under `PLAIN_STORAGE`. -/
def Obligations.SetDutyRunsTheFullPath : Prop :=
  ∀ (ch : Channel) (value : Word) (s : State), 1 ≤ value.toNat → value.toNat ≤ 255 → NoFaultAhead 4 s →
    ∃ t x,
      let q := resolve s.params.inputClockHz s.pwm[ch].targetFrequencyHz
      let dw := dutyWord s.pwm[ch] (BitVec.ofNat 8 value.toNat)
      let cw := ctrlWord s.pwm[ch] q.coarse q.fine
      exec (.setDuty ch value) s = .next t ∧
      Issues s t [.write (ch.val * 0x10 + 0x4) dw, .write (ch.val * 0x10 + 0x0) cw, .read (ch.val * 0x10 + 0x0) x,
        .write (ch.val * 0x10 + 0x0) (x ||| 0x00011000#32)] ∧
      (s.params.plainStorage = true → x = cw) ∧
      t.pwm = s.pwm.set ch { s.pwm[ch] with dutyFallingPoint := BitVec.ofNat 8 value.toNat, coarse := q.coarse,
                                            fine := q.fine, achievedFrequencyHz := q.achieved } ∧
      t.regs = s.regs.set ch { s.regs[ch] with duty := dw, ctrl := x ||| 0x00011000#32 } ∧
      t.tach = s.tach ∧ t.cool = s.cool ∧ KeepsSurroundings s t ∧ Returns s t 0#64

/-- Rules R48, R73, R75, R76, R77: `SET_DUTY` with 0 (`disable_pwm`) and `SET_DUTY_FAST` with 0: one read-modify-write of the
control register that clears both enables and keeps every other bit; only the duty is committed, the cached dividers stay. -/
def Obligations.DutyZeroDisablesTheChannel : Prop :=
  ∀ (ch : Channel) (s : State) (i : Instr), NoFaultAhead 2 s →
    (i = .setDuty ch 0#32 ∨ i = disablePwm ch ∨ i = .setDutyFast ch 0#32) →
    ∃ t x, exec i s = .next t ∧
      Issues s t [.read (ch.val * 0x10 + 0x0) x, .write (ch.val * 0x10 + 0x0) (x &&& 0xFFFEEFFF#32)] ∧
      (s.params.plainStorage = true → x = s.regs[ch].ctrl) ∧
      t.pwm = s.pwm.set ch { s.pwm[ch] with dutyFallingPoint := 0#8 } ∧
      t.regs = s.regs.set ch { s.regs[ch] with ctrl := x &&& 0xFFFEEFFF#32 } ∧
      t.tach = s.tach ∧ t.cool = s.cool ∧ KeepsSurroundings s t ∧ Returns s t 0#64

/-- Rules R76, R77, R124: a duty value above 255 is rejected by both duty commands, with no access and no change. -/
def Obligations.DutyAbove255IsRejected : Prop :=
  ∀ (ch : Channel) (value : Word) (s : State) (i : Instr), 255 < value.toNat →
    (i = .setDuty ch value ∨ i = .setDutyFast ch value) →
    ∃ t, exec i s = .next t ∧ Returns s t 0x1000000000000000#64 ∧ KeepsStore s t ∧ IssuesNothing s t ∧
      KeepsSurroundings s t

/-- Rule R77: `SET_DUTY_FAST` with a value in `1 .. 255`: the masked write of the falling-point byte alone where the stored
duty was nonzero, followed by the enable step where it was 0; only the stored duty is committed. -/
def Obligations.SetDutyFastWritesTheFallingByte : Prop :=
  ∀ (ch : Channel) (value : Word) (s : State), 1 ≤ value.toNat → value.toNat ≤ 255 → NoFaultAhead 4 s →
    ∃ t y x,
      let dw := (y &&& 0xFFFFFF00#32) ||| value
      exec (.setDutyFast ch value) s = .next t ∧
      (s.params.plainStorage = true → y = s.regs[ch].duty ∧ x = s.regs[ch].ctrl) ∧
      (s.pwm[ch].dutyFallingPoint ≠ 0#8 →
        Issues s t [.read (ch.val * 0x10 + 0x4) y, .write (ch.val * 0x10 + 0x4) dw] ∧
        t.regs = s.regs.set ch { s.regs[ch] with duty := dw }) ∧
      (s.pwm[ch].dutyFallingPoint = 0#8 →
        Issues s t [.read (ch.val * 0x10 + 0x4) y, .write (ch.val * 0x10 + 0x4) dw, .read (ch.val * 0x10 + 0x0) x,
          .write (ch.val * 0x10 + 0x0) (x ||| 0x00011000#32)] ∧
        t.regs = s.regs.set ch { s.regs[ch] with duty := dw, ctrl := x ||| 0x00011000#32 }) ∧
      t.pwm = s.pwm.set ch { s.pwm[ch] with dutyFallingPoint := BitVec.ofNat 8 value.toNat } ∧
      t.tach = s.tach ∧ t.cool = s.cool ∧ KeepsSurroundings s t ∧ Returns s t 0#64

/-- Rule R78: `ENABLE_PWM` on a channel with a nonzero stored duty: the full path for the new target and the stored duty;
target and cache are committed, the duty stays. -/
def Obligations.EnablePwmProgramsTheStoredDuty : Prop :=
  ∀ (ch : Channel) (freq : Word) (s : State), s.pwm[ch].dutyFallingPoint ≠ 0#8 → NoFaultAhead 4 s →
    ∃ t x,
      let q := resolve s.params.inputClockHz freq
      let dw := dutyWord s.pwm[ch] s.pwm[ch].dutyFallingPoint
      let cw := ctrlWord s.pwm[ch] q.coarse q.fine
      exec (.enablePwm ch freq) s = .next t ∧
      Issues s t [.write (ch.val * 0x10 + 0x4) dw, .write (ch.val * 0x10 + 0x0) cw, .read (ch.val * 0x10 + 0x0) x,
        .write (ch.val * 0x10 + 0x0) (x ||| 0x00011000#32)] ∧
      (s.params.plainStorage = true → x = cw) ∧
      t.pwm = s.pwm.set ch { s.pwm[ch] with targetFrequencyHz := freq, coarse := q.coarse, fine := q.fine,
                                            achievedFrequencyHz := q.achieved } ∧
      t.regs = s.regs.set ch { s.regs[ch] with duty := dw, ctrl := x ||| 0x00011000#32 } ∧
      t.tach = s.tach ∧ t.cool = s.cool ∧ KeepsSurroundings s t ∧ Returns s t 0#64

/-- Rule R78: `ENABLE_PWM` on a channel with a stored duty of 0 disables it, and still commits target and cache. -/
def Obligations.EnablePwmWithDutyZeroDisables : Prop :=
  ∀ (ch : Channel) (freq : Word) (s : State), s.pwm[ch].dutyFallingPoint = 0#8 → NoFaultAhead 2 s →
    ∃ t x,
      let q := resolve s.params.inputClockHz freq
      exec (.enablePwm ch freq) s = .next t ∧
      Issues s t [.read (ch.val * 0x10 + 0x0) x, .write (ch.val * 0x10 + 0x0) (x &&& 0xFFFEEFFF#32)] ∧
      (s.params.plainStorage = true → x = s.regs[ch].ctrl) ∧
      t.pwm = s.pwm.set ch { s.pwm[ch] with targetFrequencyHz := freq, coarse := q.coarse, fine := q.fine,
                                            achievedFrequencyHz := q.achieved } ∧
      t.regs = s.regs.set ch { s.regs[ch] with ctrl := x &&& 0xFFFEEFFF#32 } ∧
      t.tach = s.tach ∧ t.cool = s.cool ∧ KeepsSurroundings s t ∧ Returns s t 0#64

/-- Rule R79: `GET_DUTY` returns the stored duty, issues no access and changes nothing. -/
def Obligations.GetDutyReturnsTheStoredDuty : Prop :=
  ∀ (ch : Channel) (s : State), ∃ t, exec (.getDuty ch) s = .next t ∧
    Returns s t (0#56 ++ s.pwm[ch].dutyFallingPoint) ∧ KeepsStore s t ∧ IssuesNothing s t ∧ KeepsSurroundings s t

/-- Rule R80 (a), which the spec marks as derived: for every `d` in `0 .. 255`, `SET_DUTY` or `SET_DUTY_FAST` followed by
`GET_DUTY` returns `d`. -/
def Obligations.DutyRoundTrip : Prop :=
  ∀ (ch : Channel) (value : Word) (s : State) (i : Instr), value.toNat ≤ 255 → NoFaultAhead 4 s →
    (i = .setDuty ch value ∨ i = .setDutyFast ch value) →
    ∃ t u, exec i s = .next t ∧ Returns s t 0#64 ∧ exec (.getDuty ch) t = .next u ∧ Returns t u (0#32 ++ value)

/-- Rule R80 (b), which the spec marks as derived: under `PLAIN_STORAGE`, `SET_DUTY` twice with the same value produces the
same register writes both times. -/
def Obligations.SetDutyIsIdempotent : Prop :=
  ∀ (ch : Channel) (value : Word) (s : State), value.toNat ≤ 255 → s.params.plainStorage = true → NoFaultAhead 8 s →
    ∃ t u l m, exec (.setDuty ch value) s = .next t ∧ exec (.setDuty ch value) t = .next u ∧
      Issues s t l ∧ Issues t u m ∧ l.filter PortAccess.isWrite = m.filter PortAccess.isWrite

/-- Rule R147, which the spec marks as derived: the two encodings of 255. Under `PLAIN_STORAGE`, `SET_DUTY` with 255 leaves a
falling byte of 0 and a following `SET_DUTY_FAST` with 255 leaves 255, with the rest of the duty word as it was. -/
def Obligations.TwoEncodingsOfDuty255 : Prop :=
  ∀ (ch : Channel) (s : State), s.params.plainStorage = true → NoFaultAhead 8 s →
    ∃ t u, exec (.setDuty ch 255#32) s = .next t ∧ exec (.setDutyFast ch 255#32) t = .next u ∧
      t.regs[ch].duty.extractLsb' 0 16 = 0x0000#16 ∧ u.regs[ch].duty.extractLsb' 0 16 = 0x00FF#16 ∧
      u.regs[ch].duty.extractLsb' 16 16 = t.regs[ch].duty.extractLsb' 16 16 ∧
      t.pwm[ch].dutyFallingPoint = 255#8 ∧ u.pwm[ch].dutyFallingPoint = 255#8

/-- Rules R38, R81, R145: the duty word is written and the control write faults: the mixed state is kept, no later access is
issued, nothing is committed, and the response is `BUS_FAULT`. What the faulted write leaves is any word `a` (spec/93 U2).
That it changes no other register is the model's choice (log entry 9, DESIGN CHOICE, unsafe); so is the form of the
engine's answers as a list (log entry 3). -/
def Obligations.FaultedControlWriteLeavesAMixedState : Prop :=
  ∀ (ch : Channel) (value : Word) (s : State) (b a : Word) (rest : List EngineAnswer), 1 ≤ value.toNat →
    value.toNat ≤ 255 → s.params.portFaults = true →
    s.answers = { faults := false, word := b } :: { faults := true, word := a } :: rest →
    ∃ t,
      let q := resolve s.params.inputClockHz s.pwm[ch].targetFrequencyHz
      let dw := dutyWord s.pwm[ch] (BitVec.ofNat 8 value.toNat)
      exec (.setDuty ch value) s = .next t ∧
      Issues s t [.write (ch.val * 0x10 + 0x4) dw,
        .writeFault (ch.val * 0x10 + 0x0) (ctrlWord s.pwm[ch] q.coarse q.fine)] ∧
      t.regs = s.regs.set ch { s.regs[ch] with duty := dw, ctrl := a } ∧
      KeepsStore s t ∧ KeepsSurroundings s t ∧ Returns s t 0x2000000000000000#64

/-! ### Tachometer commands -/

/-- Rule R92: `ENABLE_TACH` with operands in their legal ranges writes the tach-control word once and stores every field of
the record with its divider. -/
def Obligations.EnableTachWritesAndStoresTheRecord : Prop :=
  ∀ (ch : Channel) (mode : EdgeMode) (debounce : BitVec 2) (ppr : Byte) (exp : BitVec 4) (inv : Bool) (threshold : Word)
    (s : State), ppr ≠ 0#8 → threshold.toNat ≤ 0xFFFFF → NoFaultAhead 1 s →
    ∃ t,
      let edge : BitVec 2 := match mode with | .fallingToFalling => 0#2 | .risingToRising => 1#2 | .both => 2#2
      let r : TachChannelConfig :=
        { edgeMode := mode, debounceLevel := debounce, pulsesPerRevolution := ppr, dividerExponent := exp,
          inverseLimitComparison := inv, threshold := threshold,
          divider := BitVec.ofNat 32 (2 ^ (2 * exp.toNat)) }
      exec (.enableTach ch edge debounce ppr exp inv threshold) s = .next t ∧
      Issues s t [.write (ch.val * 0x10 + 0x8) (tachCtrlWord r)] ∧
      t.tach = s.tach.set ch r ∧ t.regs = s.regs.set ch { s.regs[ch] with tctrl := tachCtrlWord r } ∧
      t.pwm = s.pwm ∧ t.cool = s.cool ∧ KeepsSurroundings s t ∧ Returns s t 0#64

/-- Rules R92, R124: an edge code of 3, no pulses per revolution or a threshold above `0xFFFFF` is rejected, with no access and
no change. -/
def Obligations.EnableTachRejectsIllegalOperands : Prop :=
  ∀ (ch : Channel) (edge debounce : BitVec 2) (ppr : Byte) (exp : BitVec 4) (inv : Bool) (threshold : Word) (s : State),
    (edge = 3#2 ∨ ppr = 0#8 ∨ 0xFFFFF < threshold.toNat) →
    ∃ t, exec (.enableTach ch edge debounce ppr exp inv threshold) s = .next t ∧
      Returns s t 0x1000000000000000#64 ∧ KeepsStore s t ∧ IssuesNothing s t ∧ KeepsSurroundings s t

/-- Rules R93, R94, R96: `GET_RPM` reads the status register one to three times, stops at the first read with bit 20 set,
converts the last value read, and reports `stale` exactly when no read had bit 20 set; it changes nothing in the store. -/
def Obligations.GetRpmConvertsTheLastStatusRead : Prop :=
  ∀ (ch : Channel) (s : State), NoFaultAhead 3 s →
    ∃ t vs v, exec (.getRpm ch) s = .next t ∧
      Issues s t ((vs ++ [v]).map fun x => .read (ch.val * 0x10 + 0xC) x) ∧
      vs.length ≤ 2 ∧ (∀ x ∈ vs, x.getLsbD 20 = false) ∧ (vs.length < 2 → v.getLsbD 20 = true) ∧
      Returns s t (0#4 ++ (0#27 ++ BitVec.ofBool (!v.getLsbD 20)) ++
        rpm s.params.inputClockHz (v.extractLsb' 0 20) s.tach[ch].divider s.tach[ch].pulsesPerRevolution) ∧
      KeepsStore s t ∧ t.regs = s.regs ∧ KeepsSurroundings s t

/-- Rules R32, R94: each read of the poll returns the engine's own answer, any word, independently of the earlier ones: with
three answers listed, the poll returns the first one with bit 20 set, else the third; where neither of the first two has
it, all three are used up. That the poll reads no further once bit 20 is seen is
`Obligations.GetRpmConvertsTheLastStatusRead`. The list of answers is the model's form (log entry 3). -/
def Obligations.PollTakesTheEngineAnswersInOrder : Prop :=
  ∀ (ch : Channel) (s : State) (a b c : Word) (rest : List EngineAnswer), s.params.portFaults = false →
    s.answers = { faults := false, word := a } :: { faults := false, word := b } ::
      { faults := false, word := c } :: rest →
    (a.getLsbD 20 = true → (poll ch s).value = some (a, false)) ∧
    (a.getLsbD 20 = false → b.getLsbD 20 = true → (poll ch s).value = some (b, false)) ∧
    (a.getLsbD 20 = false → b.getLsbD 20 = false →
      (poll ch s).value = some (c, !c.getLsbD 20) ∧ (poll ch s).state.answers = rest)

/-- Rule R95: the conversion, for `divider >= 1` and `ppr >= 1`: 0 at the sentinel, else divide by the exact product first
and then multiply by 60, modulo `2^32`. -/
def Obligations.RpmDividesFirstThenMultiplies : Prop :=
  ∀ (clk divider : Word) (raw : BitVec 20) (ppr : Byte), 1 ≤ divider.toNat → 1 ≤ ppr.toNat →
    (raw = 0xFFFFF#20 → rpm clk raw divider ppr = 0#32) ∧
    (raw ≠ 0xFFFFF#20 → (rpm clk raw divider ppr).toNat =
      clk.toNat / ((raw.toNat + 1) * divider.toNat * ppr.toNat) * 60 % 2 ^ 32)

/-- Rule R97 (b), (c), which the spec marks as derived: where no reduction modulo `2^32` occurs the RPM is a multiple of 60 and
does not grow with the count, the sentinel included. -/
def Obligations.RpmFallsWithTheCount : Prop :=
  ∀ (clk divider : Word) (raw raw' : BitVec 20) (ppr : Byte), 1 ≤ divider.toNat → 1 ≤ ppr.toNat →
    raw ≠ 0xFFFFF#20 → raw.toNat ≤ raw'.toNat →
    clk.toNat / ((raw.toNat + 1) * divider.toNat * ppr.toNat) ≤ 71582788 →
    (rpm clk raw' divider ppr).toNat ≤ (rpm clk raw divider ppr).toNat ∧ 60 ∣ (rpm clk raw divider ppr).toNat

/-! ### Cooling commands -/

/-- Rules R106, R107: on a present slot `GET_MAX_STATE` returns `length(levels) - 1` and `GET_CUR_STATE` the state last set;
"pure accessors with no side effects". -/
def Obligations.CoolingAccessorsReturnTheStates : Prop :=
  ∀ (ch : Channel) (s : State) (d : CoolingDevice), s.cool[ch] = some d →
    (∃ t, exec (.getMaxState ch) s = .next t ∧ Returns s t (0#32 ++ BitVec.ofNat 32 (d.levels.length - 1)) ∧
      KeepsStore s t ∧ IssuesNothing s t ∧ KeepsSurroundings s t) ∧
    (∃ t, exec (.getCurState ch) s = .next t ∧ Returns s t (0#32 ++ BitVec.ofNat 32 d.currentState) ∧
      KeepsStore s t ∧ IssuesNothing s t ∧ KeepsSurroundings s t)

/-- Rules R105, R127, R129: on an absent slot the three cooling commands return `NO_DEVICE`, whatever the state operand, with
no access and no change. -/
def Obligations.AbsentSlotReturnsNoDevice : Prop :=
  ∀ (ch : Channel) (state : Word) (s : State) (i : Instr), s.cool[ch] = none →
    (i = .getMaxState ch ∨ i = .getCurState ch ∨ i = .setCurState ch state) →
    ∃ t, exec i s = .next t ∧ Returns s t 0x4000000000000000#64 ∧ KeepsStore s t ∧ IssuesNothing s t ∧
      KeepsSurroundings s t

/-- Rules R74, R108: `SET_CUR_STATE` to a state whose level is nonzero runs the full path with that level and commits the
state together with the PWM record. -/
def Obligations.SetCurStateProgramsTheLevel : Prop :=
  ∀ (ch : Channel) (state : Word) (s : State) (d : CoolingDevice) (duty : Byte), s.cool[ch] = some d →
    d.levels[state.toNat]? = some duty → duty ≠ 0#8 → NoFaultAhead 4 s →
    ∃ t x,
      let q := resolve s.params.inputClockHz s.pwm[ch].targetFrequencyHz
      let dw := dutyWord s.pwm[ch] duty
      let cw := ctrlWord s.pwm[ch] q.coarse q.fine
      exec (.setCurState ch state) s = .next t ∧
      Issues s t [.write (ch.val * 0x10 + 0x4) dw, .write (ch.val * 0x10 + 0x0) cw, .read (ch.val * 0x10 + 0x0) x,
        .write (ch.val * 0x10 + 0x0) (x ||| 0x00011000#32)] ∧
      (s.params.plainStorage = true → x = cw) ∧
      t.pwm = s.pwm.set ch { s.pwm[ch] with dutyFallingPoint := duty, coarse := q.coarse, fine := q.fine,
                                            achievedFrequencyHz := q.achieved } ∧
      t.cool = s.cool.set ch (some { d with currentState := state.toNat }) ∧
      t.regs = s.regs.set ch { s.regs[ch] with duty := dw, ctrl := x ||| 0x00011000#32 } ∧
      t.tach = s.tach ∧ KeepsSurroundings s t ∧ Returns s t 0#64

/-- Rules R75, R108: `SET_CUR_STATE` to a state whose level is 0 takes the disable path and commits the state. -/
def Obligations.SetCurStateWithLevelZeroDisables : Prop :=
  ∀ (ch : Channel) (state : Word) (s : State) (d : CoolingDevice), s.cool[ch] = some d →
    d.levels[state.toNat]? = some 0#8 → NoFaultAhead 2 s →
    ∃ t x, exec (.setCurState ch state) s = .next t ∧
      Issues s t [.read (ch.val * 0x10 + 0x0) x, .write (ch.val * 0x10 + 0x0) (x &&& 0xFFFEEFFF#32)] ∧
      (s.params.plainStorage = true → x = s.regs[ch].ctrl) ∧
      t.pwm = s.pwm.set ch { s.pwm[ch] with dutyFallingPoint := 0#8 } ∧
      t.cool = s.cool.set ch (some { d with currentState := state.toNat }) ∧
      t.regs = s.regs.set ch { s.regs[ch] with ctrl := x &&& 0xFFFEEFFF#32 } ∧
      t.tach = s.tach ∧ KeepsSurroundings s t ∧ Returns s t 0#64

/-- Rules R108, R124: a state above `max_state` is rejected; it "leaves `current_state` and hardware duty unchanged". -/
def Obligations.SetCurStateAboveMaxIsRejected : Prop :=
  ∀ (ch : Channel) (state : Word) (s : State) (d : CoolingDevice), s.cool[ch] = some d → 1 ≤ d.levels.length →
    d.levels.length - 1 < state.toNat →
    ∃ t, exec (.setCurState ch state) s = .next t ∧ Returns s t 0x1000000000000000#64 ∧ KeepsStore s t ∧
      IssuesNothing s t ∧ KeepsSurroundings s t

/-- Rule R109, which the spec marks as derived: after a successful `SET_CUR_STATE`, `GET_CUR_STATE` returns the state and
`GET_DUTY` its level. -/
def Obligations.CoolingStateRoundTrip : Prop :=
  ∀ (ch : Channel) (state : Word) (s : State) (d : CoolingDevice) (duty : Byte), s.cool[ch] = some d →
    d.levels[state.toNat]? = some duty → NoFaultAhead 4 s →
    ∃ t u v, exec (.setCurState ch state) s = .next t ∧ Returns s t 0#64 ∧
      exec (.getCurState ch) t = .next u ∧ Returns t u (0#32 ++ state) ∧
      exec (.getDuty ch) t = .next v ∧ Returns t v (0#56 ++ duty)

/-! ### Configuration commands -/

/-- Rules R115, R116: `CFG_FAILSAFE` writes the fail-safe record and `CFG_FLAGS` the two flags of the channel; no port access,
nothing else changed. -/
def Obligations.ConfigurationWritesItsFields : Prop :=
  ∀ (ch : Channel) (s : State),
    (∀ (enabled : Bool) (edge : EdgeSelection) (point : Byte), ∃ t,
      exec (.cfgFailsafe ch enabled edge point) s = .next t ∧
      t.pwm = s.pwm.set ch { s.pwm[ch] with
        watchdogFailsafe := { enabled := enabled, edgeSelection := edge, failsafePoint := point } } ∧
      t.tach = s.tach ∧ t.cool = s.cool ∧ IssuesNothing s t ∧ KeepsSurroundings s t ∧ Returns s t 0#64) ∧
    (∀ sync inverted : Bool, ∃ t,
      exec (.cfgFlags ch sync inverted) s = .next t ∧
      t.pwm = s.pwm.set ch { s.pwm[ch] with dutySyncDisabled := sync, outputInverted := inverted } ∧
      t.tach = s.tach ∧ t.cool = s.cool ∧ IssuesNothing s t ∧ KeepsSurroundings s t ∧ Returns s t 0#64)

/-- Rule R117: `CFG_COOL_CLEAR` makes the slot absent, also where it was absent already. -/
def Obligations.CoolClearMakesTheSlotAbsent : Prop :=
  ∀ (ch : Channel) (s : State), ∃ t, exec (.cfgCoolClear ch) s = .next t ∧ t.cool = s.cool.set ch none ∧
    t.pwm = s.pwm ∧ t.tach = s.tach ∧ IssuesNothing s t ∧ KeepsSurroundings s t ∧ Returns s t 0#64

/-- Rule R118: `CFG_COOL_LEVEL` creates the device with one level and state 0, or appends the level at the highest index and
keeps the state, or returns `OUT_OF_RANGE` on a table of 256 levels; it programs nothing. -/
def Obligations.CoolLevelCreatesOrAppends : Prop :=
  ∀ (ch : Channel) (level : Byte) (s : State),
    (s.cool[ch] = none → ∃ t, exec (.cfgCoolLevel ch level) s = .next t ∧
      t.cool = s.cool.set ch (some { pwmChannel := ch, levels := [level], currentState := 0 }) ∧
      t.pwm = s.pwm ∧ t.tach = s.tach ∧ IssuesNothing s t ∧ KeepsSurroundings s t ∧ Returns s t 0#64) ∧
    (∀ d, s.cool[ch] = some d → d.levels.length ≠ 256 → ∃ t, exec (.cfgCoolLevel ch level) s = .next t ∧
      t.cool = s.cool.set ch (some { d with levels := d.levels ++ [level] }) ∧
      t.pwm = s.pwm ∧ t.tach = s.tach ∧ IssuesNothing s t ∧ KeepsSurroundings s t ∧ Returns s t 0#64) ∧
    (∀ d, s.cool[ch] = some d → d.levels.length = 256 → ∃ t, exec (.cfgCoolLevel ch level) s = .next t ∧
      KeepsStore s t ∧ IssuesNothing s t ∧ KeepsSurroundings s t ∧ Returns s t 0x1000000000000000#64)
end

