-- ==== Sys2Proof/Laws/State.lean ====
section
/-! SUPPORT. One lemma per field of `State` per named update, true by `rfl`: later proofs cite these and unfold no record
update. `dropAnswer` is a case on the listed answers, so its lemmas are by cases. -/

namespace Sys2Proof.Machine

variable (s : State)

/-! ### `setPwm` -/

@[simp] theorem State.setPwm_params (ch : Channel) (r : PwmChannelConfig) : (s.setPwm ch r).params = s.params := rfl
@[simp] theorem State.setPwm_pwm (ch : Channel) (r : PwmChannelConfig) : (s.setPwm ch r).pwm = s.pwm.set ch r := rfl
@[simp] theorem State.setPwm_tach (ch : Channel) (r : PwmChannelConfig) : (s.setPwm ch r).tach = s.tach := rfl
@[simp] theorem State.setPwm_cool (ch : Channel) (r : PwmChannelConfig) : (s.setPwm ch r).cool = s.cool := rfl
@[simp] theorem State.setPwm_regs (ch : Channel) (r : PwmChannelConfig) : (s.setPwm ch r).regs = s.regs := rfl
@[simp] theorem State.setPwm_inputs (ch : Channel) (r : PwmChannelConfig) : (s.setPwm ch r).inputs = s.inputs := rfl
@[simp] theorem State.setPwm_responses (ch : Channel) (r : PwmChannelConfig) : (s.setPwm ch r).responses = s.responses := rfl
@[simp] theorem State.setPwm_answers (ch : Channel) (r : PwmChannelConfig) : (s.setPwm ch r).answers = s.answers := rfl
@[simp] theorem State.setPwm_draws (ch : Channel) (r : PwmChannelConfig) : (s.setPwm ch r).draws = s.draws := rfl
@[simp] theorem State.setPwm_trace (ch : Channel) (r : PwmChannelConfig) : (s.setPwm ch r).trace = s.trace := rfl

/-! ### `setTach` -/

@[simp] theorem State.setTach_params (ch : Channel) (r : TachChannelConfig) : (s.setTach ch r).params = s.params := rfl
@[simp] theorem State.setTach_pwm (ch : Channel) (r : TachChannelConfig) : (s.setTach ch r).pwm = s.pwm := rfl
@[simp] theorem State.setTach_tach (ch : Channel) (r : TachChannelConfig) : (s.setTach ch r).tach = s.tach.set ch r := rfl
@[simp] theorem State.setTach_cool (ch : Channel) (r : TachChannelConfig) : (s.setTach ch r).cool = s.cool := rfl
@[simp] theorem State.setTach_regs (ch : Channel) (r : TachChannelConfig) : (s.setTach ch r).regs = s.regs := rfl
@[simp] theorem State.setTach_inputs (ch : Channel) (r : TachChannelConfig) : (s.setTach ch r).inputs = s.inputs := rfl
@[simp] theorem State.setTach_responses (ch : Channel) (r : TachChannelConfig) : (s.setTach ch r).responses = s.responses := rfl
@[simp] theorem State.setTach_answers (ch : Channel) (r : TachChannelConfig) : (s.setTach ch r).answers = s.answers := rfl
@[simp] theorem State.setTach_draws (ch : Channel) (r : TachChannelConfig) : (s.setTach ch r).draws = s.draws := rfl
@[simp] theorem State.setTach_trace (ch : Channel) (r : TachChannelConfig) : (s.setTach ch r).trace = s.trace := rfl

/-! ### `setCool` -/

@[simp] theorem State.setCool_params (ch : Channel) (d : Option CoolingDevice) : (s.setCool ch d).params = s.params := rfl
@[simp] theorem State.setCool_pwm (ch : Channel) (d : Option CoolingDevice) : (s.setCool ch d).pwm = s.pwm := rfl
@[simp] theorem State.setCool_tach (ch : Channel) (d : Option CoolingDevice) : (s.setCool ch d).tach = s.tach := rfl
@[simp] theorem State.setCool_cool (ch : Channel) (d : Option CoolingDevice) : (s.setCool ch d).cool = s.cool.set ch d := rfl
@[simp] theorem State.setCool_regs (ch : Channel) (d : Option CoolingDevice) : (s.setCool ch d).regs = s.regs := rfl
@[simp] theorem State.setCool_inputs (ch : Channel) (d : Option CoolingDevice) : (s.setCool ch d).inputs = s.inputs := rfl
@[simp] theorem State.setCool_responses (ch : Channel) (d : Option CoolingDevice) : (s.setCool ch d).responses = s.responses := rfl
@[simp] theorem State.setCool_answers (ch : Channel) (d : Option CoolingDevice) : (s.setCool ch d).answers = s.answers := rfl
@[simp] theorem State.setCool_draws (ch : Channel) (d : Option CoolingDevice) : (s.setCool ch d).draws = s.draws := rfl
@[simp] theorem State.setCool_trace (ch : Channel) (d : Option CoolingDevice) : (s.setCool ch d).trace = s.trace := rfl

/-! ### `respond` -/

@[simp] theorem State.respond_params (r : ResponseWord) : (s.respond r).params = s.params := rfl
@[simp] theorem State.respond_pwm (r : ResponseWord) : (s.respond r).pwm = s.pwm := rfl
@[simp] theorem State.respond_tach (r : ResponseWord) : (s.respond r).tach = s.tach := rfl
@[simp] theorem State.respond_cool (r : ResponseWord) : (s.respond r).cool = s.cool := rfl
@[simp] theorem State.respond_regs (r : ResponseWord) : (s.respond r).regs = s.regs := rfl
@[simp] theorem State.respond_inputs (r : ResponseWord) : (s.respond r).inputs = s.inputs := rfl
@[simp] theorem State.respond_responses (r : ResponseWord) : (s.respond r).responses = s.responses ++ [r] := rfl
@[simp] theorem State.respond_answers (r : ResponseWord) : (s.respond r).answers = s.answers := rfl
@[simp] theorem State.respond_draws (r : ResponseWord) : (s.respond r).draws = s.draws := rfl
@[simp] theorem State.respond_trace (r : ResponseWord) : (s.respond r).trace = s.trace := rfl

/-! ### `complete` -/

@[simp] theorem State.complete_params (aux : BitVec 28) (val : Word) : (s.complete aux val).params = s.params := rfl
@[simp] theorem State.complete_pwm (aux : BitVec 28) (val : Word) : (s.complete aux val).pwm = s.pwm := rfl
@[simp] theorem State.complete_tach (aux : BitVec 28) (val : Word) : (s.complete aux val).tach = s.tach := rfl
@[simp] theorem State.complete_cool (aux : BitVec 28) (val : Word) : (s.complete aux val).cool = s.cool := rfl
@[simp] theorem State.complete_regs (aux : BitVec 28) (val : Word) : (s.complete aux val).regs = s.regs := rfl
@[simp] theorem State.complete_inputs (aux : BitVec 28) (val : Word) : (s.complete aux val).inputs = s.inputs := rfl
@[simp] theorem State.complete_responses (aux : BitVec 28) (val : Word) : (s.complete aux val).responses = s.responses ++ [responseWord .ok aux val] := rfl
@[simp] theorem State.complete_answers (aux : BitVec 28) (val : Word) : (s.complete aux val).answers = s.answers := rfl
@[simp] theorem State.complete_draws (aux : BitVec 28) (val : Word) : (s.complete aux val).draws = s.draws := rfl
@[simp] theorem State.complete_trace (aux : BitVec 28) (val : Word) : (s.complete aux val).trace = s.trace := rfl

/-! ### `raise` -/

@[simp] theorem State.raise_params (st : Status) : (s.raise st).params = s.params := rfl
@[simp] theorem State.raise_pwm (st : Status) : (s.raise st).pwm = s.pwm := rfl
@[simp] theorem State.raise_tach (st : Status) : (s.raise st).tach = s.tach := rfl
@[simp] theorem State.raise_cool (st : Status) : (s.raise st).cool = s.cool := rfl
@[simp] theorem State.raise_regs (st : Status) : (s.raise st).regs = s.regs := rfl
@[simp] theorem State.raise_inputs (st : Status) : (s.raise st).inputs = s.inputs := rfl
@[simp] theorem State.raise_responses (st : Status) : (s.raise st).responses = s.responses ++ [responseWord st 0#28 0#32] := rfl
@[simp] theorem State.raise_answers (st : Status) : (s.raise st).answers = s.answers := rfl
@[simp] theorem State.raise_draws (st : Status) : (s.raise st).draws = s.draws := rfl
@[simp] theorem State.raise_trace (st : Status) : (s.raise st).trace = s.trace := rfl

/-! ### `record` -/

@[simp] theorem State.record_params (a : PortAccess) : (s.record a).params = s.params := rfl
@[simp] theorem State.record_pwm (a : PortAccess) : (s.record a).pwm = s.pwm := rfl
@[simp] theorem State.record_tach (a : PortAccess) : (s.record a).tach = s.tach := rfl
@[simp] theorem State.record_cool (a : PortAccess) : (s.record a).cool = s.cool := rfl
@[simp] theorem State.record_regs (a : PortAccess) : (s.record a).regs = s.regs := rfl
@[simp] theorem State.record_inputs (a : PortAccess) : (s.record a).inputs = s.inputs := rfl
@[simp] theorem State.record_responses (a : PortAccess) : (s.record a).responses = s.responses := rfl
@[simp] theorem State.record_answers (a : PortAccess) : (s.record a).answers = s.answers := rfl
@[simp] theorem State.record_draws (a : PortAccess) : (s.record a).draws = s.draws := rfl
@[simp] theorem State.record_trace (a : PortAccess) : (s.record a).trace = s.trace ++ [a] := rfl

/-! ### `store` -/

@[simp] theorem State.store_params (ch : Channel) (k : RegKind) (v : Word) : (s.store ch k v).params = s.params := rfl
@[simp] theorem State.store_pwm (ch : Channel) (k : RegKind) (v : Word) : (s.store ch k v).pwm = s.pwm := rfl
@[simp] theorem State.store_tach (ch : Channel) (k : RegKind) (v : Word) : (s.store ch k v).tach = s.tach := rfl
@[simp] theorem State.store_cool (ch : Channel) (k : RegKind) (v : Word) : (s.store ch k v).cool = s.cool := rfl
@[simp] theorem State.store_regs (ch : Channel) (k : RegKind) (v : Word) : (s.store ch k v).regs = s.regs.set ch (s.regs[ch].put v k) := rfl
@[simp] theorem State.store_inputs (ch : Channel) (k : RegKind) (v : Word) : (s.store ch k v).inputs = s.inputs := rfl
@[simp] theorem State.store_responses (ch : Channel) (k : RegKind) (v : Word) : (s.store ch k v).responses = s.responses := rfl
@[simp] theorem State.store_answers (ch : Channel) (k : RegKind) (v : Word) : (s.store ch k v).answers = s.answers := rfl
@[simp] theorem State.store_draws (ch : Channel) (k : RegKind) (v : Word) : (s.store ch k v).draws = s.draws := rfl
@[simp] theorem State.store_trace (ch : Channel) (k : RegKind) (v : Word) : (s.store ch k v).trace = s.trace := rfl

/-! ### `commitProgram` -/

@[simp] theorem State.commitProgram_params (ch : Channel) (d : Byte) : (s.commitProgram ch d).params = s.params := rfl
@[simp] theorem State.commitProgram_pwm (ch : Channel) (d : Byte) : (s.commitProgram ch d).pwm = s.pwm.set ch (s.pwm[ch].programmed s.params.inputClockHz d) := rfl
@[simp] theorem State.commitProgram_tach (ch : Channel) (d : Byte) : (s.commitProgram ch d).tach = s.tach := rfl
@[simp] theorem State.commitProgram_cool (ch : Channel) (d : Byte) : (s.commitProgram ch d).cool = s.cool := rfl
@[simp] theorem State.commitProgram_regs (ch : Channel) (d : Byte) : (s.commitProgram ch d).regs = s.regs := rfl
@[simp] theorem State.commitProgram_inputs (ch : Channel) (d : Byte) : (s.commitProgram ch d).inputs = s.inputs := rfl
@[simp] theorem State.commitProgram_responses (ch : Channel) (d : Byte) : (s.commitProgram ch d).responses = s.responses := rfl
@[simp] theorem State.commitProgram_answers (ch : Channel) (d : Byte) : (s.commitProgram ch d).answers = s.answers := rfl
@[simp] theorem State.commitProgram_draws (ch : Channel) (d : Byte) : (s.commitProgram ch d).draws = s.draws := rfl
@[simp] theorem State.commitProgram_trace (ch : Channel) (d : Byte) : (s.commitProgram ch d).trace = s.trace := rfl

/-! ### `blockReset` -/

@[simp] theorem State.blockReset_params : (s.blockReset).params = s.params := rfl
@[simp] theorem State.blockReset_pwm : (s.blockReset).pwm = Vector.replicate 16 (PwmChannelConfig.ofDefaults s.params.defPwm) := rfl
@[simp] theorem State.blockReset_tach : (s.blockReset).tach = Vector.replicate 16 (TachChannelConfig.ofDefaults s.params.defTach) := rfl
@[simp] theorem State.blockReset_cool : (s.blockReset).cool = Vector.replicate 16 none := rfl
@[simp] theorem State.blockReset_regs : (s.blockReset).regs = s.regs := rfl
@[simp] theorem State.blockReset_inputs : (s.blockReset).inputs = s.inputs := rfl
@[simp] theorem State.blockReset_responses : (s.blockReset).responses = s.responses := rfl
@[simp] theorem State.blockReset_answers : (s.blockReset).answers = s.answers := rfl
@[simp] theorem State.blockReset_draws : (s.blockReset).draws = s.draws := rfl
@[simp] theorem State.blockReset_trace : (s.blockReset).trace = s.trace := rfl

/-! ### `dropInput` -/

@[simp] theorem State.dropInput_params : (s.dropInput).params = s.params := rfl
@[simp] theorem State.dropInput_pwm : (s.dropInput).pwm = s.pwm := rfl
@[simp] theorem State.dropInput_tach : (s.dropInput).tach = s.tach := rfl
@[simp] theorem State.dropInput_cool : (s.dropInput).cool = s.cool := rfl
@[simp] theorem State.dropInput_regs : (s.dropInput).regs = s.regs := rfl
@[simp] theorem State.dropInput_inputs : (s.dropInput).inputs = s.inputs.tail := rfl
@[simp] theorem State.dropInput_responses : (s.dropInput).responses = s.responses := rfl
@[simp] theorem State.dropInput_answers : (s.dropInput).answers = s.answers := rfl
@[simp] theorem State.dropInput_draws : (s.dropInput).draws = s.draws := rfl
@[simp] theorem State.dropInput_trace : (s.dropInput).trace = s.trace := rfl

/-! ### `rejectWord` -/

@[simp] theorem State.rejectWord_params : (s.rejectWord).params = s.params := rfl
@[simp] theorem State.rejectWord_pwm : (s.rejectWord).pwm = s.pwm := rfl
@[simp] theorem State.rejectWord_tach : (s.rejectWord).tach = s.tach := rfl
@[simp] theorem State.rejectWord_cool : (s.rejectWord).cool = s.cool := rfl
@[simp] theorem State.rejectWord_regs : (s.rejectWord).regs = s.regs := rfl
@[simp] theorem State.rejectWord_inputs : (s.rejectWord).inputs = s.inputs := rfl
@[simp] theorem State.rejectWord_responses : (s.rejectWord).responses = s.responses ++ [responseWord .illegalCommand 0#28 0#32] := rfl
@[simp] theorem State.rejectWord_answers : (s.rejectWord).answers = s.answers := rfl
@[simp] theorem State.rejectWord_draws : (s.rejectWord).draws = s.draws := rfl
@[simp] theorem State.rejectWord_trace : (s.rejectWord).trace = s.trace := rfl

/-! ### `dropAnswer` -/

@[simp] theorem State.dropAnswer_params : s.dropAnswer.params = s.params := by
  unfold State.dropAnswer; cases s.answers <;> rfl
@[simp] theorem State.dropAnswer_pwm : s.dropAnswer.pwm = s.pwm := by
  unfold State.dropAnswer; cases s.answers <;> rfl
@[simp] theorem State.dropAnswer_tach : s.dropAnswer.tach = s.tach := by
  unfold State.dropAnswer; cases s.answers <;> rfl
@[simp] theorem State.dropAnswer_cool : s.dropAnswer.cool = s.cool := by
  unfold State.dropAnswer; cases s.answers <;> rfl
@[simp] theorem State.dropAnswer_regs : s.dropAnswer.regs = s.regs := by
  unfold State.dropAnswer; cases s.answers <;> rfl
@[simp] theorem State.dropAnswer_inputs : s.dropAnswer.inputs = s.inputs := by
  unfold State.dropAnswer; cases s.answers <;> rfl
@[simp] theorem State.dropAnswer_responses : s.dropAnswer.responses = s.responses := by
  unfold State.dropAnswer; cases s.answers <;> rfl
@[simp] theorem State.dropAnswer_trace : s.dropAnswer.trace = s.trace := by
  unfold State.dropAnswer; cases s.answers <;> rfl

@[simp] theorem State.dropAnswer_answers : s.dropAnswer.answers = s.answers.tail := by
  unfold State.dropAnswer; cases s.answers <;> simp

theorem State.dropAnswer_draws : s.dropAnswer.draws = if s.answers = [] then s.draws + 1 else s.draws := by
  unfold State.dropAnswer; cases s.answers <;> simp

/-! ### Accessors that depend on few fields -/

@[simp] theorem State.portFault_setPwm (ch : Channel) (r : PwmChannelConfig) : (s.setPwm ch r).portFault = s.portFault := rfl
@[simp] theorem State.nextAnswer_setPwm (ch : Channel) (r : PwmChannelConfig) : (s.setPwm ch r).nextAnswer = s.nextAnswer := rfl
@[simp] theorem State.portFault_setTach (ch : Channel) (r : TachChannelConfig) : (s.setTach ch r).portFault = s.portFault := rfl
@[simp] theorem State.nextAnswer_setTach (ch : Channel) (r : TachChannelConfig) : (s.setTach ch r).nextAnswer = s.nextAnswer := rfl
@[simp] theorem State.portFault_setCool (ch : Channel) (d : Option CoolingDevice) : (s.setCool ch d).portFault = s.portFault := rfl
@[simp] theorem State.nextAnswer_setCool (ch : Channel) (d : Option CoolingDevice) : (s.setCool ch d).nextAnswer = s.nextAnswer := rfl
@[simp] theorem State.portFault_respond (r : ResponseWord) : (s.respond r).portFault = s.portFault := rfl
@[simp] theorem State.nextAnswer_respond (r : ResponseWord) : (s.respond r).nextAnswer = s.nextAnswer := rfl
@[simp] theorem State.portFault_complete (aux : BitVec 28) (val : Word) : (s.complete aux val).portFault = s.portFault := rfl
@[simp] theorem State.nextAnswer_complete (aux : BitVec 28) (val : Word) : (s.complete aux val).nextAnswer = s.nextAnswer := rfl
@[simp] theorem State.portFault_raise (st : Status) : (s.raise st).portFault = s.portFault := rfl
@[simp] theorem State.nextAnswer_raise (st : Status) : (s.raise st).nextAnswer = s.nextAnswer := rfl
@[simp] theorem State.portFault_record (a : PortAccess) : (s.record a).portFault = s.portFault := rfl
@[simp] theorem State.nextAnswer_record (a : PortAccess) : (s.record a).nextAnswer = s.nextAnswer := rfl
@[simp] theorem State.portFault_store (ch : Channel) (k : RegKind) (v : Word) : (s.store ch k v).portFault = s.portFault := rfl
@[simp] theorem State.nextAnswer_store (ch : Channel) (k : RegKind) (v : Word) : (s.store ch k v).nextAnswer = s.nextAnswer := rfl
@[simp] theorem State.portFault_commitProgram (ch : Channel) (d : Byte) : (s.commitProgram ch d).portFault = s.portFault := rfl
@[simp] theorem State.nextAnswer_commitProgram (ch : Channel) (d : Byte) : (s.commitProgram ch d).nextAnswer = s.nextAnswer := rfl
@[simp] theorem State.portFault_blockReset : (s.blockReset).portFault = s.portFault := rfl
@[simp] theorem State.nextAnswer_blockReset : (s.blockReset).nextAnswer = s.nextAnswer := rfl
@[simp] theorem State.portFault_dropInput : (s.dropInput).portFault = s.portFault := rfl
@[simp] theorem State.nextAnswer_dropInput : (s.dropInput).nextAnswer = s.nextAnswer := rfl
@[simp] theorem State.portFault_rejectWord : (s.rejectWord).portFault = s.portFault := rfl
@[simp] theorem State.nextAnswer_rejectWord : (s.rejectWord).nextAnswer = s.nextAnswer := rfl

/-! ### One register of a channel -/

@[simp] theorem ChannelRegs.put_ctrl (r : ChannelRegs) (v : Word) : r.put v .ctrl = { r with ctrl := v } := rfl
@[simp] theorem ChannelRegs.put_duty (r : ChannelRegs) (v : Word) : r.put v .duty = { r with duty := v } := rfl
@[simp] theorem ChannelRegs.put_tctrl (r : ChannelRegs) (v : Word) : r.put v .tctrl = { r with tctrl := v } := rfl
@[simp] theorem ChannelRegs.put_tsts (r : ChannelRegs) (v : Word) : r.put v .tsts = r := rfl
@[simp] theorem State.stored_ctrl (ch : Channel) : s.stored ch .ctrl = some s.regs[ch].ctrl := rfl
@[simp] theorem State.stored_duty (ch : Channel) : s.stored ch .duty = some s.regs[ch].duty := rfl
@[simp] theorem State.stored_tctrl (ch : Channel) : s.stored ch .tctrl = some s.regs[ch].tctrl := rfl
@[simp] theorem State.stored_tsts (ch : Channel) : s.stored ch .tsts = none := rfl

/-! ### Reset -/

@[simp] theorem State.resetWith_params (p : Params) (regs : Vector ChannelRegs 16) :
    (State.resetWith p regs).params = p := rfl
@[simp] theorem State.resetWith_pwm (p : Params) (regs : Vector ChannelRegs 16) :
    (State.resetWith p regs).pwm = Vector.replicate 16 (PwmChannelConfig.ofDefaults p.defPwm) := rfl
@[simp] theorem State.resetWith_tach (p : Params) (regs : Vector ChannelRegs 16) :
    (State.resetWith p regs).tach = Vector.replicate 16 (TachChannelConfig.ofDefaults p.defTach) := rfl
@[simp] theorem State.resetWith_cool (p : Params) (regs : Vector ChannelRegs 16) :
    (State.resetWith p regs).cool = Vector.replicate 16 none := rfl
@[simp] theorem State.resetWith_regs (p : Params) (regs : Vector ChannelRegs 16) :
    (State.resetWith p regs).regs = regs := rfl
@[simp] theorem State.resetWith_inputs (p : Params) (regs : Vector ChannelRegs 16) :
    (State.resetWith p regs).inputs = [] := rfl
@[simp] theorem State.resetWith_responses (p : Params) (regs : Vector ChannelRegs 16) :
    (State.resetWith p regs).responses = [] := rfl
@[simp] theorem State.resetWith_answers (p : Params) (regs : Vector ChannelRegs 16) :
    (State.resetWith p regs).answers = [] := rfl
@[simp] theorem State.resetWith_draws (p : Params) (regs : Vector ChannelRegs 16) :
    (State.resetWith p regs).draws = 0 := rfl
@[simp] theorem State.resetWith_trace (p : Params) (regs : Vector ChannelRegs 16) :
    (State.resetWith p regs).trace = [] := rfl

end Sys2Proof.Machine
end

