-- ==== Sys2Proof/Laws/Ops.lean ====
section
/-! SUPPORT. What the shared operations do, said once: the Register Access Port, the access sequences built from it, and
the end of a command. Provers cite these and do not unfold the operations.

`AccessRun.Spec ch n s r` says everything a sequence of accesses to channel `ch` can do, whatever the engine answers; the
`_ok` lemmas give the exact outcome where no access faults. -/

namespace Sys2Proof.Machine

/-! ### Nothing but port accesses -/

/-- `t` is `s` after the port accesses `l`, with everything but the engine's side as before. -/
def OnlyAccesses (s t : State) (l : List PortAccess) : Prop :=
  KeepsStore s t ∧ KeepsSurroundings s t ∧ t.responses = s.responses ∧ Issues s t l

theorem OnlyAccesses.trans {s t u : State} {l m : List PortAccess} (h : OnlyAccesses s t l)
    (k : OnlyAccesses t u m) : OnlyAccesses s u (l ++ m) := by
  obtain ⟨⟨a, b, c⟩, ⟨d, e⟩, f, g⟩ := h
  obtain ⟨⟨a', b', c'⟩, ⟨d', e'⟩, f', g'⟩ := k
  refine ⟨⟨a'.trans a, b'.trans b, c'.trans c⟩, ⟨d'.trans d, e'.trans e⟩, f'.trans f, ?_⟩
  simp only [Issues] at *
  rw [g', g, List.append_assoc]

/-- A faulted access is the last one issued, and there is one exactly where the sequence did not complete (rule R38). -/
def FaultsOnlyLast (completed : Bool) (l : List PortAccess) : Prop :=
  if completed then ∀ a ∈ l, a.faulted = false
  else ∃ init a, l = init ++ [a] ∧ a.faulted = true ∧ ∀ b ∈ init, b.faulted = false

/-- Everything a sequence of at most `n` accesses to channel `ch` can do. -/
def AccessRun.Spec (ch : Channel) (n : Nat) (s : State) (r : AccessRun) : Prop :=
  ∃ l, OnlyAccesses s r.state l ∧ l.length ≤ n ∧ (∀ a ∈ l, AccessLegal a) ∧ FaultsOnlyLast r.completed l ∧
    (s.params.portFaults = false → r.completed = true) ∧ ∀ c : Channel, c ≠ ch → r.state.regs[c] = s.regs[c]

/-- The empty sequence. -/
theorem AccessRun.Spec.done (ch : Channel) (s : State) :
    AccessRun.Spec ch 0 s { completed := true, state := s } :=
  ⟨[], by simp [OnlyAccesses, KeepsStore, KeepsSurroundings, Issues], by simp, by simp, by simp [FaultsOnlyLast],
    by simp, by simp⟩

theorem AccessRun.Spec.mono {ch : Channel} {n m : Nat} {s : State} {r : AccessRun} (h : AccessRun.Spec ch n s r)
    (hnm : n ≤ m) : AccessRun.Spec ch m s r := by
  obtain ⟨l, a, b, c⟩ := h
  exact ⟨l, a, by omega, c⟩

/-- Sequences compose. -/
theorem AccessRun.Spec.andThen {ch : Channel} {n m : Nat} {s : State} {r : AccessRun} {k : State → AccessRun}
    (h : AccessRun.Spec ch n s r) (hk : ∀ t, AccessRun.Spec ch m t (k t)) :
    AccessRun.Spec ch (n + m) s (r.andThen k) := by
  unfold AccessRun.andThen
  by_cases hc : r.completed = true
  · obtain ⟨l, ho, hl, ha, hf, hp, hr⟩ := h
    obtain ⟨l', ho', hl', ha', hf', hp', hr'⟩ := hk r.state
    rw [if_pos hc]
    refine ⟨l ++ l', ho.trans ho', by simp; omega, ?_, ?_, ?_, fun c hne => (hr' c hne).trans (hr c hne)⟩
    · intro a hm
      rcases List.mem_append.1 hm with hm | hm
      · exact ha a hm
      · exact ha' a hm
    · simp only [FaultsOnlyLast, hc, if_true] at hf
      unfold FaultsOnlyLast at hf' ⊢
      split at hf'
      · rename_i hc'
        simp only [hc', if_true]
        intro a hm
        rcases List.mem_append.1 hm with hm | hm
        · exact hf a hm
        · exact hf' a hm
      · rename_i hc'
        rw [if_neg hc']
        obtain ⟨init, a, rfl, hfa, hb⟩ := hf'
        refine ⟨l ++ init, a, by simp, hfa, fun b hm => ?_⟩
        rcases List.mem_append.1 hm with hm | hm
        · exact hf b hm
        · exact hb b hm
    · intro hpf
      exact hp' (by rw [ho.2.1.1]; exact hpf)
  · rw [if_neg hc]
    exact h.mono (by omega)

/-! ### One access -/

theorem regOffset_legal (ch : Channel) (k : RegKind) :
    regOffset ch k ≤ 0x0FC ∧ regOffset ch k % 4 = 0 ∧ regOffset ch k % 0x10 = regPlace k := by
  have := ch.isLt
  cases k <;> simp only [regOffset, regPlace, Config.chStride] <;> omega

theorem regs_put_of_ne (s : State) {ch c : Channel} (k : RegKind) (v : Word) (h : c ≠ ch) :
    (s.regs.set ch (s.regs[ch].put v k))[c] = s.regs[c] := by
  have : (ch : Nat) ≠ c := fun e => h (Fin.ext e.symm)
  simp [this]

/-- Everything a read can do (rules R27, R38); the tach-control register is never read. -/
theorem regRead_spec (ch : Channel) (k : RegKind) (hk : k ≠ .tctrl) (s : State) :
    AccessRun.Spec ch 1 s { completed := (regRead ch k s).value.isSome, state := (regRead ch k s).state } := by
  obtain ⟨h1, h2, h3⟩ := regOffset_legal ch k
  have h4 : regOffset ch k % 0x10 ≠ 0x8 := by cases k <;> simp_all [regPlace]
  unfold regRead
  cases hf : s.portFault
  · exact ⟨[.read (regOffset ch k) (s.readValue ch k)], by simp [OnlyAccesses, KeepsStore, KeepsSurroundings, Issues],
      by simp, by simp [AccessLegal, PortAccess.offset, PortAccess.isWrite, h1, h2, h4],
      by simp [FaultsOnlyLast, PortAccess.faulted], by simp, by simp⟩
  · refine ⟨[.readFault (regOffset ch k)], by simp [OnlyAccesses, KeepsStore, KeepsSurroundings, Issues], by simp,
      by simp [AccessLegal, PortAccess.offset, PortAccess.isWrite, h1, h2, h4], ?_, ?_, by simp⟩
    · exact ⟨[], _, rfl, rfl, by simp⟩
    · intro h
      simp [State.portFault, h] at hf

/-- Everything a write can do (rules R28, R38); the tach-status register is never written. -/
theorem regWrite_spec (ch : Channel) (k : RegKind) (hk : k ≠ .tsts) (v : Word) (s : State) :
    AccessRun.Spec ch 1 s (regWrite ch k v s) := by
  obtain ⟨h1, h2, h3⟩ := regOffset_legal ch k
  have h4 : regOffset ch k % 0x10 ≠ 0xC := by cases k <;> simp_all [regPlace]
  unfold regWrite
  cases hf : s.portFault
  · exact ⟨[.write (regOffset ch k) v], by simp [OnlyAccesses, KeepsStore, KeepsSurroundings, Issues], by simp,
      by simp [AccessLegal, PortAccess.offset, PortAccess.isWrite, h1, h2, h4],
      by simp [FaultsOnlyLast, PortAccess.faulted], by simp,
      fun c hne => by simpa using regs_put_of_ne s k v hne⟩
  · refine ⟨[.writeFault (regOffset ch k) v], by simp [OnlyAccesses, KeepsStore, KeepsSurroundings, Issues], by simp,
      by simp [AccessLegal, PortAccess.offset, PortAccess.isWrite, h1, h2, h4], ?_, ?_,
      fun c hne => by simpa using regs_put_of_ne s k _ hne⟩
    · exact ⟨[], _, rfl, rfl, by simp⟩
    · intro h
      simp [State.portFault, h] at hf

/-- A read-modify-write is the read and then, if it came back, the write (rule R29). -/
theorem regUpdate_eq_andThen (ch : Channel) (k : RegKind) (mask v : Word) (s : State) :
    regUpdate ch k mask v s =
      AccessRun.andThen { completed := (regRead ch k s).value.isSome, state := (regRead ch k s).state } fun t =>
        regWrite ch k (((regRead ch k s).value.getD 0#32 &&& ~~~mask) ||| (v &&& mask)) t := by
  unfold regUpdate AccessRun.andThen
  cases (regRead ch k s).value <;> rfl

theorem regUpdate_spec (ch : Channel) (k : RegKind) (hr : k ≠ .tctrl) (hw : k ≠ .tsts) (mask v : Word) (s : State) :
    AccessRun.Spec ch 2 s (regUpdate ch k mask v s) := by
  rw [regUpdate_eq_andThen]
  exact (regRead_spec ch k hr s).andThen fun t => regWrite_spec ch k hw _ t

/-! ### The exact outcome where no access faults -/

theorem regRead_ok {s : State} (h : s.portFault = false) (ch : Channel) (k : RegKind) :
    regRead ch k s =
      { value := some (s.readValue ch k),
        state := s.dropAnswer.record (.read (regOffset ch k) (s.readValue ch k)) } := by
  simp [regRead, h]

theorem regWrite_ok {s : State} (h : s.portFault = false) (ch : Channel) (k : RegKind) (v : Word) :
    regWrite ch k v s =
      { completed := true, state := (s.dropAnswer.record (.write (regOffset ch k) v)).store ch k v } := by
  simp [regWrite, h]

/-- `NoFaultAhead` looks at the parameters and the engine's answers only. -/
theorem NoFaultAhead.congr {s t : State} : ∀ {n : Nat}, t.params = s.params → t.answers = s.answers →
    t.draws = s.draws → NoFaultAhead n s → NoFaultAhead n t
  | 0, _, _, _, _ => trivial
  | n + 1, hp, ha, hd, ⟨h1, h2⟩ => by
    refine ⟨?_, NoFaultAhead.congr ?_ ?_ ?_ h2⟩
    · simpa [State.portFault, State.nextAnswer, hp, ha, hd] using h1
    · simp [hp]
    · simp [ha]
    · simp [State.dropAnswer_draws, ha, hd]

theorem NoFaultAhead.mono {s : State} : ∀ {n m : Nat}, n ≤ m → NoFaultAhead m s → NoFaultAhead n s
  | 0, _, _, _ => trivial
  | n + 1, m + 1, h, ⟨h1, h2⟩ => ⟨h1, NoFaultAhead.mono (by omega) h2⟩

/-- Without `PORT_FAULTS` no access ever faults (rule R38). -/
theorem noFaultAhead_of_portFaults_false {s : State} (h : s.params.portFaults = false) (n : Nat) :
    NoFaultAhead n s := by
  induction n generalizing s with
  | zero => trivial
  | succ n ih => exact ⟨by simp [State.portFault, h], ih (by simpa using h)⟩

/-- A completed write keeps the rest of the run free of faults. -/
theorem NoFaultAhead.afterWrite {s : State} {n : Nat} (h : NoFaultAhead (n + 1) s) (ch : Channel) (k : RegKind)
    (v : Word) : NoFaultAhead n (regWrite ch k v s).state := by
  rw [regWrite_ok h.1]
  exact NoFaultAhead.congr (s := s.dropAnswer) rfl rfl rfl h.2

theorem NoFaultAhead.afterRead {s : State} {n : Nat} (h : NoFaultAhead (n + 1) s) (ch : Channel) (k : RegKind) :
    NoFaultAhead n (regRead ch k s).state := by
  rw [regRead_ok h.1]
  exact NoFaultAhead.congr (s := s.dropAnswer) rfl rfl rfl h.2

/-- A write that does not fault, with what is left of the run (rule R28). -/
theorem regWrite_runs {s : State} {n : Nat} (h : NoFaultAhead (n + 1) s) (ch : Channel) (k : RegKind) (v : Word) :
    ∃ t, regWrite ch k v s = { completed := true, state := t } ∧
      OnlyAccesses s t [.write (regOffset ch k) v] ∧ t.regs = s.regs.set ch (s.regs[ch].put v k) ∧
      NoFaultAhead n t := by
  have hn := h.afterWrite ch k v
  rw [regWrite_ok h.1] at hn ⊢
  exact ⟨_, rfl, by simp [OnlyAccesses, KeepsStore, KeepsSurroundings, Issues], by simp, hn⟩

/-- Without faults a read-modify-write reads once and writes once (rule R29). -/
theorem regUpdate_ok {s : State} {n : Nat} (h : NoFaultAhead (n + 2) s) (ch : Channel) (k : RegKind) (mask v : Word) :
    ∃ t, regUpdate ch k mask v s = { completed := true, state := t } ∧
      OnlyAccesses s t [.read (regOffset ch k) (s.readValue ch k),
        .write (regOffset ch k) ((s.readValue ch k &&& ~~~mask) ||| (v &&& mask))] ∧
      t.regs = s.regs.set ch (s.regs[ch].put ((s.readValue ch k &&& ~~~mask) ||| (v &&& mask)) k) ∧
      t.answers = s.answers.drop 2 ∧ NoFaultAhead n t := by
  have h1 := h.afterRead ch k
  unfold regUpdate
  rw [regRead_ok h.1] at h1 ⊢
  have h2 := h1.afterWrite ch k ((s.readValue ch k &&& ~~~mask) ||| (v &&& mask))
  simp only [regWrite_ok h1.1] at h2 ⊢
  refine ⟨_, rfl, ?_, ?_, ?_, h2⟩
  · simp [OnlyAccesses, KeepsStore, KeepsSurroundings, Issues]
  · simp
  · simp only [State.store_answers, State.record_answers, State.dropAnswer_answers]
    rcases s.answers with _ | ⟨_, _ | ⟨_, _⟩⟩ <;> rfl

/-! ### The end of a command -/

theorem AccessRun.finish_completed {r : AccessRun} (h : r.completed = true) (commit : State → State) :
    r.finish commit = (commit r.state).complete 0#28 0#32 := by
  simp [AccessRun.finish, h]

theorem AccessRun.finish_faulted {r : AccessRun} (h : r.completed = false) (commit : State → State) :
    r.finish commit = r.state.raise .busFault := by
  simp [AccessRun.finish, h]

end Sys2Proof.Machine
end

