-- ==== Sys2Proof/Laws/Programmer.lean ====
section
/-! SUPPORT. What the access sequences of the commands do: the enable and disable steps, the full path, the fast path and
the status poll. The `_spec` lemmas hold whatever the engine answers; the `_ok` lemmas give the exact accesses where none
faults. -/

namespace Sys2Proof.Machine

/-! ### Whatever the engine answers -/

theorem enableStep_spec (ch : Channel) (s : State) : AccessRun.Spec ch 2 s (enableStep ch s) :=
  regUpdate_spec ch .ctrl (by decide) (by decide) _ _ s

theorem disableStep_spec (ch : Channel) (s : State) : AccessRun.Spec ch 2 s (disableStep ch s) :=
  regUpdate_spec ch .ctrl (by decide) (by decide) _ _ s

theorem writeWords_spec (ch : Channel) (dw cw : Word) (s : State) : AccessRun.Spec ch 4 s (writeWords ch dw cw s) :=
  (regWrite_spec ch .duty (by decide) dw s).andThen fun t =>
    (regWrite_spec ch .ctrl (by decide) cw t).andThen (enableStep_spec ch)

/-- The programming procedure issues at most four accesses, all to its own channel (rules R74, R75). -/
theorem programAccesses_spec (ch : Channel) (r : PwmChannelConfig) (d : Byte) (s : State) :
    AccessRun.Spec ch 4 s (programAccesses ch r d s) := by
  unfold programAccesses
  split
  · exact (disableStep_spec ch s).mono (by decide)
  · exact writeWords_spec ch _ _ s

/-- The fast path issues at most four accesses, all to its own channel (rule R77). -/
theorem fastAccesses_spec (ch : Channel) (old d : Byte) (s : State) :
    AccessRun.Spec ch 4 s (fastAccesses ch old d s) := by
  unfold fastAccesses
  split
  · exact (disableStep_spec ch s).mono (by decide)
  · refine (regUpdate_spec ch .duty (by decide) (by decide) _ _ s).andThen (m := 2) fun t => ?_
    split
    · exact enableStep_spec ch t
    · exact (AccessRun.Spec.done ch t).mono (by decide)

/-- The poll issues at most `more + 1` reads (rule R94). -/
theorem pollFor_spec (ch : Channel) : ∀ (more : Nat) (s : State),
    AccessRun.Spec ch (more + 1) s
      { completed := (pollFor ch more s).value.isSome, state := (pollFor ch more s).state }
  | 0, s => by
    have h := regRead_spec ch .tsts (by decide) s
    unfold pollFor
    cases hv : (regRead ch .tsts s).value <;> simpa [hv] using h
  | more + 1, s => by
    have h := regRead_spec ch .tsts (by decide) s
    unfold pollFor
    cases hv : (regRead ch .tsts s).value with
    | none => rw [hv] at h; exact AccessRun.Spec.mono (n := 1) h (by omega)
    | some v =>
      rw [hv] at h
      dsimp only
      split
      · exact AccessRun.Spec.mono (n := 1) h (by omega)
      · have k := h.andThen (k := fun t =>
          { completed := (pollFor ch more t).value.isSome, state := (pollFor ch more t).state })
          fun t => pollFor_spec ch more t
        simpa [AccessRun.andThen, Nat.add_comm] using k

theorem poll_spec (ch : Channel) (s : State) :
    AccessRun.Spec ch 3 s { completed := (poll ch s).value.isSome, state := (poll ch s).state } :=
  pollFor_spec ch 2 s

/-! ### Where no access faults -/

/-- The enable step sets both enables in the value it reads (rule R72). -/
theorem enableStep_ok {s : State} (h : NoFaultAhead 2 s) (ch : Channel) :
    ∃ t, enableStep ch s = { completed := true, state := t } ∧
      OnlyAccesses s t [.read (regOffset ch .ctrl) (s.readValue ch .ctrl),
        .write (regOffset ch .ctrl) (s.readValue ch .ctrl ||| enableMask)] ∧
      t.regs = s.regs.set ch { s.regs[ch] with ctrl := s.readValue ch .ctrl ||| enableMask } := by
  obtain ⟨t, h1, h2, h3, -⟩ := regUpdate_ok (n := 0) h ch .ctrl enableMask enableMask
  have e : ∀ x : Word, (x &&& ~~~enableMask) ||| (enableMask &&& enableMask) = x ||| enableMask := by
    intro x
    apply BitVec.eq_of_getLsbD_eq
    intro i hi
    simp only [BitVec.getLsbD_or, BitVec.getLsbD_and, BitVec.getLsbD_not]
    cases x.getLsbD i <;> cases enableMask.getLsbD i <;> simp [hi]
  rw [e] at h2 h3
  exact ⟨t, h1, h2, h3⟩

/-- The disable step clears both enables in the value it reads (rule R73). -/
theorem disableStep_ok {s : State} (h : NoFaultAhead 2 s) (ch : Channel) :
    ∃ t, disableStep ch s = { completed := true, state := t } ∧
      OnlyAccesses s t [.read (regOffset ch .ctrl) (s.readValue ch .ctrl),
        .write (regOffset ch .ctrl) (s.readValue ch .ctrl &&& ~~~enableMask)] ∧
      t.regs = s.regs.set ch { s.regs[ch] with ctrl := s.readValue ch .ctrl &&& ~~~enableMask } := by
  obtain ⟨t, h1, h2, h3, -⟩ := regUpdate_ok (n := 0) h ch .ctrl enableMask 0#32
  have e : ∀ x : Word, (x &&& ~~~enableMask) ||| (0#32 &&& enableMask) = x &&& ~~~enableMask := by
    intro x
    simp
  rw [e] at h2 h3
  exact ⟨t, h1, h2, h3⟩

/-- The full path: the duty word, the control word, the read of the control register, the enabled control word; `x` is
the value that read returns, the control word under `PLAIN_STORAGE` (rules R33, R74). -/
theorem writeWords_ok {s : State} (h : NoFaultAhead 4 s) (ch : Channel) (dw cw : Word) :
    ∃ t x, writeWords ch dw cw s = { completed := true, state := t } ∧
      OnlyAccesses s t [.write (regOffset ch .duty) dw, .write (regOffset ch .ctrl) cw,
        .read (regOffset ch .ctrl) x, .write (regOffset ch .ctrl) (x ||| enableMask)] ∧
      t.regs = s.regs.set ch { s.regs[ch] with duty := dw, ctrl := x ||| enableMask } ∧
      (s.params.plainStorage = true → x = cw) := by
  obtain ⟨u, eu, ou, ru, hu⟩ := regWrite_runs (n := 3) h ch .duty dw
  obtain ⟨v, ev, ov, rv, hv⟩ := regWrite_runs (n := 2) hu ch .ctrl cw
  obtain ⟨t, et, ot, rt⟩ := enableStep_ok hv ch
  refine ⟨t, v.readValue ch .ctrl, ?_, (ou.trans ov).trans ot, ?_, ?_⟩
  · simp [writeWords, AccessRun.andThen, eu, ev, et]
  · rw [rt, rv, ru]
    simp
  · intro hp
    have hp' : v.params.plainStorage = true := by rw [ov.2.1.1, ou.2.1.1, hp]
    simp [State.readValue, hp', rv]

end Sys2Proof.Machine
end

