-- ==== Sys2Proof/Laws/Commands.lean ====
section
/-! SUPPORT. What a command can do, said once for all fourteen: `exec_outcome`. It answers a next state that is one of three
things: the command was turned away before any access, or an access faulted and nothing was committed, or its accesses
completed and `commitOf` was applied to the store. Invariants and whole-machine rules follow from it without unfolding
`exec`. -/

namespace Sys2Proof.Machine

/-- What a command commits to the store when it completes with `OK`. -/
def commitOf : Instr → State → State
  | .resolve _, s => s
  | .enablePwm ch freq, s =>
      s.setPwm ch (({ s.pwm[ch] with targetFrequencyHz := freq } : PwmChannelConfig).cache
        (resolve s.params.inputClockHz freq))
  | .setDuty ch value, s => s.commitProgram ch (value.setWidth 8)
  | .setDutyFast ch value, s => s.setPwm ch { s.pwm[ch] with dutyFallingPoint := value.setWidth 8 }
  | .getDuty _, s => s
  | .enableTach ch edge debounce ppr exp inv threshold, s =>
      match edgeModeOfCode edge with
      | some mode => s.setTach ch
          { edgeMode := mode, debounceLevel := debounce, pulsesPerRevolution := ppr, dividerExponent := exp,
            inverseLimitComparison := inv, threshold := threshold, divider := channelDivider exp }
      | none => s
  | .getRpm _, s => s
  | .getMaxState _, s => s
  | .getCurState _, s => s
  | .setCurState ch state, s =>
      match s.cool[ch] with
      | none => s
      | some d => (s.commitProgram ch (d.levels[state.toNat]?.getD 0#8)).setCool ch
          (some { d with currentState := state.toNat })
  | .cfgFailsafe ch enabled edge point, s =>
      s.setPwm ch { s.pwm[ch] with
        watchdogFailsafe := { enabled := enabled, edgeSelection := edge, failsafePoint := point } }
  | .cfgFlags ch sync inverted, s =>
      s.setPwm ch { s.pwm[ch] with dutySyncDisabled := sync, outputInverted := inverted }
  | .cfgCoolClear ch, s => s.setCool ch none
  | .cfgCoolLevel ch level, s =>
      match s.cool[ch] with
      | none => s.setCool ch (some { pwmChannel := ch, levels := [level], currentState := 0 })
      | some d => s.setCool ch (some { d with levels := d.levels ++ [level] })

/-- The operands and the store admit the command: no range or device check turns it away (rules R124, R127). -/
def admits : Instr → State → Bool
  | .setDuty _ value, _ => dutyInRange value
  | .setDutyFast _ value, _ => dutyInRange value
  | .enableTach _ edge _ ppr _ _ threshold, _ => (edgeModeOfCode edge).isSome && tachOperandsInRange ppr threshold
  | .getMaxState ch, s => s.cool[ch].isSome
  | .getCurState ch, s => s.cool[ch].isSome
  | .setCurState ch state, s =>
      match s.cool[ch] with
      | none => false
      | some d => d.levels[state.toNat]?.isSome
  | .cfgCoolLevel ch _, s =>
      match s.cool[ch] with
      | none => true
      | some d => d.levels.length != Config.maxLevels
  | .resolve _, _ => true
  | .enablePwm _ _, _ => true
  | .getDuty _, _ => true
  | .getRpm _, _ => true
  | .cfgFailsafe _ _ _ _, _ => true
  | .cfgFlags _ _ _, _ => true
  | .cfgCoolClear _, _ => true

/-- The port accesses of a command that is admitted: they lead from `s` to `u`, legal, at most four, all to the command's own
channel; `completed` says whether none of them faulted. -/
def CommandAccesses (i : Instr) (s u : State) (completed : Bool) (l : List PortAccess) : Prop :=
  OnlyAccesses s u l ∧ l.length ≤ 4 ∧ (∀ a ∈ l, AccessLegal a) ∧ FaultsOnlyLast completed l ∧
    (s.params.portFaults = false → completed = true) ∧ ∀ c : Channel, channelOf i ≠ some c → u.regs[c] = s.regs[c]

/-- The three outcomes of a command. -/
inductive CommandOutcome (i : Instr) (s : State) : State → Prop where
  | turnedAway (st : Status) (h : st = .outOfRange ∨ st = .noDevice) (ha : admits i s = false) :
      CommandOutcome i s (s.raise st)
  | busFault (u : State) (l : List PortAccess) (ha : admits i s = true) (h : CommandAccesses i s u false l) :
      CommandOutcome i s (u.raise .busFault)
  | completed (u : State) (l : List PortAccess) (aux : BitVec 28) (val : Word) (ha : admits i s = true)
      (h : CommandAccesses i s u true l) : CommandOutcome i s ((commitOf i u).complete aux val)

/-- A command without accesses that completes. -/
theorem CommandOutcome.ofNoAccess {i : Instr} {s : State} (ha : admits i s = true) (aux : BitVec 28) (val : Word) :
    CommandOutcome i s ((commitOf i s).complete aux val) :=
  .completed s [] aux val ha
    ⟨by simp [OnlyAccesses, KeepsStore, KeepsSurroundings, Issues], by simp, by simp, by simp [FaultsOnlyLast],
      by simp, by simp⟩

/-- A sequence of accesses to the command's channel, and then its commit. -/
theorem CommandOutcome.ofRun {i : Instr} {s : State} {ch : Channel} {r : AccessRun} (hch : channelOf i = some ch)
    (ha : admits i s = true) (hr : AccessRun.Spec ch 4 s r) (commit : State → State)
    (hc : ∀ u l, OnlyAccesses s u l → commit u = commitOf i u) : CommandOutcome i s (r.finish commit) := by
  obtain ⟨l, ho, hl, hal, hf, hp, hregs⟩ := hr
  have hregs' : ∀ c : Channel, channelOf i ≠ some c → r.state.regs[c] = s.regs[c] := fun c hne =>
    hregs c fun e => hne (by rw [hch, e])
  cases hcomp : r.completed with
  | true =>
    rw [AccessRun.finish_completed hcomp, hc _ _ ho]
    exact .completed _ l _ _ ha ⟨ho, hl, hal, hcomp ▸ hf, fun _ => rfl, hregs'⟩
  | false =>
    rw [AccessRun.finish_faulted hcomp]
    exact .busFault _ l ha ⟨ho, hl, hal, hcomp ▸ hf, fun h => absurd (hp h) (by simp [hcomp]), hregs'⟩

/-- A command that reads the status register and converts what it read. -/
theorem getRpm_outcome (ch : Channel) (s : State) :
    ∃ t, exec (.getRpm ch) s = .next t ∧ CommandOutcome (.getRpm ch) s t := by
  obtain ⟨l, ho, hl, hal, hf, hp, hregs⟩ := (poll_spec ch s).mono (m := 4) (by decide)
  have hregs' : ∀ c : Channel, channelOf (.getRpm ch) ≠ some c → (poll ch s).state.regs[c] = s.regs[c] :=
    fun c hne => hregs c fun e => hne (by rw [e]; rfl)
  refine ⟨_, rfl, ?_⟩
  cases hv : (poll ch s).value with
  | none =>
    rw [hv] at hf hp
    exact .busFault _ l rfl ⟨ho, hl, hal, hf, fun h => absurd (hp h) (by simp), hregs'⟩
  | some v =>
    rw [hv] at hf hp
    exact .completed (i := .getRpm ch) _ l _ _ rfl ⟨ho, hl, hal, hf, fun _ => rfl, hregs'⟩

/-- EVERY COMMAND answers a next state that is one of the three outcomes. -/
theorem exec_outcome (i : Instr) (s : State) : ∃ t, exec i s = .next t ∧ CommandOutcome i s t := by
  cases i with
  | resolve target => exact ⟨_, rfl, .ofNoAccess (i := .resolve target) rfl _ _⟩
  | enablePwm ch freq =>
    refine ⟨_, rfl, .ofRun rfl rfl (programAccesses_spec ch _ _ s) _ fun u l ho => ?_⟩
    simp [commitOf, ho.1.1, ho.2.1.1]
  | setDuty ch value =>
    refine ⟨_, rfl, ?_⟩
    cases hd : dutyInRange value with
    | false => exact .turnedAway _ (.inl rfl) hd
    | true => exact .ofRun (i := .setDuty ch value) rfl hd (programAccesses_spec ch _ _ s) _ fun u l ho => rfl
  | setDutyFast ch value =>
    refine ⟨_, rfl, ?_⟩
    cases hd : dutyInRange value with
    | false => exact .turnedAway _ (.inl rfl) hd
    | true => exact .ofRun (i := .setDutyFast ch value) rfl hd (fastAccesses_spec ch _ _ s) _ fun u l ho => rfl
  | getDuty ch => exact ⟨_, rfl, .ofNoAccess (i := .getDuty ch) rfl _ _⟩
  | enableTach ch edge debounce ppr exp inv threshold =>
    refine ⟨_, rfl, ?_⟩
    cases he : edgeModeOfCode edge with
    | none => exact .turnedAway _ (.inl rfl) (by simp [admits, he])
    | some mode =>
      cases hr : tachOperandsInRange ppr threshold with
      | false => exact .turnedAway _ (.inl rfl) (by simp [admits, hr])
      | true =>
        refine .ofRun rfl (by simp [admits, he, hr])
          ((regWrite_spec ch .tctrl (by decide) _ s).mono (by decide)) _ fun u l ho => ?_
        simp [commitOf, he]
  | getRpm ch => exact getRpm_outcome ch s
  | getMaxState ch =>
    refine ⟨_, rfl, ?_⟩
    cases hc : s.cool[ch] with
    | none => exact .turnedAway _ (.inr rfl) (by simp [admits, hc])
    | some d => exact .ofNoAccess (i := .getMaxState ch) (by simp [admits, hc]) _ _
  | getCurState ch =>
    refine ⟨_, rfl, ?_⟩
    cases hc : s.cool[ch] with
    | none => exact .turnedAway _ (.inr rfl) (by simp [admits, hc])
    | some d => exact .ofNoAccess (i := .getCurState ch) (by simp [admits, hc]) _ _
  | setCurState ch state =>
    refine ⟨_, rfl, ?_⟩
    cases hc : s.cool[ch] with
    | none => exact .turnedAway _ (.inr rfl) (by simp [admits, hc])
    | some d =>
      dsimp only
      cases hl : d.levels[state.toNat]? with
      | none => exact .turnedAway _ (.inl rfl) (by simp [admits, hc, hl])
      | some duty =>
        refine .ofRun rfl (by simp [admits, hc, hl]) (programAccesses_spec ch _ _ s) _ fun u l ho => ?_
        have : u.cool[ch] = some d := by rw [ho.1.2.2, hc]
        simp [commitOf, this, hl]
  | cfgFailsafe ch enabled edge point => exact ⟨_, rfl, .ofNoAccess (i := .cfgFailsafe ch enabled edge point) rfl _ _⟩
  | cfgFlags ch sync inverted => exact ⟨_, rfl, .ofNoAccess (i := .cfgFlags ch sync inverted) rfl _ _⟩
  | cfgCoolClear ch => exact ⟨_, rfl, .ofNoAccess (i := .cfgCoolClear ch) rfl _ _⟩
  | cfgCoolLevel ch level =>
    refine ⟨_, rfl, ?_⟩
    cases hc : s.cool[ch] with
    | none =>
      have h := CommandOutcome.ofNoAccess (i := .cfgCoolLevel ch level) (s := s) (by simp [admits, hc]) 0#28 0#32
      simpa [commitOf, hc] using h
    | some d =>
      dsimp only
      by_cases hl : d.levels.length = Config.maxLevels
      · rw [if_pos hl]
        exact .turnedAway _ (.inl rfl) (by simp [admits, hc, hl])
      · rw [if_neg hl]
        have h := CommandOutcome.ofNoAccess (i := .cfgCoolLevel ch level) (s := s) (by simp [admits, hc, hl]) 0#28 0#32
        simpa [commitOf, hc] using h

/-- The inversion of `exec_outcome`. -/
theorem exec_cases {i : Instr} {s t : State} (h : exec i s = .next t) : CommandOutcome i s t := by
  obtain ⟨t', h', ho⟩ := exec_outcome i s
  rw [h'] at h
  cases h
  exact ho

end Sys2Proof.Machine
end

