-- ==== Sys2Proof/Laws/Words.lean ====
section
/-! SUPPORT. The response word and the command word taken apart: one lemma per field of what was put together. -/

namespace Sys2Proof.Machine

/-! ### The response word (rule R45) -/

theorem responseWord_getLsbD (st : Status) (aux : BitVec 28) (val : Word) (i : Nat) :
    (responseWord st aux val).getLsbD i =
      if i < 32 then val.getLsbD i
      else if i - 32 < 28 then aux.getLsbD (i - 32) else st.code.getLsbD (i - 32 - 28) := by
  show (st.code ++ aux ++ val).getLsbD i = _
  simp only [BitVec.getLsbD_append]

theorem statusField_responseWord (st : Status) (aux : BitVec 28) (val : Word) :
    statusField (responseWord st aux val) = st.code := by
  apply BitVec.eq_of_getLsbD_eq
  intro i hi
  rw [statusField, BitVec.getLsbD_extractLsb', responseWord_getLsbD, if_neg (by omega), if_neg (by omega)]
  simp only [hi, decide_true, Bool.true_and]
  congr 1
  omega

theorem auxField_responseWord (st : Status) (aux : BitVec 28) (val : Word) :
    auxField (responseWord st aux val) = aux := by
  apply BitVec.eq_of_getLsbD_eq
  intro i hi
  rw [auxField, BitVec.getLsbD_extractLsb', responseWord_getLsbD, if_neg (by omega), if_pos (by omega)]
  simp only [hi, decide_true, Bool.true_and]
  congr 1
  omega

theorem valField_responseWord (st : Status) (aux : BitVec 28) (val : Word) :
    valField (responseWord st aux val) = val := by
  apply BitVec.eq_of_getLsbD_eq
  intro i hi
  rw [valField, BitVec.getLsbD_extractLsb', responseWord_getLsbD, if_pos (by omega)]
  simp only [hi, decide_true, Bool.true_and]
  congr 1
  omega

/-- A status alone: every bit below `ST` is 0 (rule R45). -/
theorem raised_low_bits (st : Status) : (responseWord st 0#28 0#32).extractLsb' 0 60 = 0#60 := by
  cases st <;> decide

end Sys2Proof.Machine

namespace Sys2Proof

/-! ### The command word (rule R40) -/

theorem assemble_getLsbD (op : Opcode) (ch : Channel) (arg : BitVec 52) (i : Nat) :
    (assemble op ch arg).getLsbD i =
      if i < 52 then arg.getLsbD i
      else if i - 52 < 4 then (BitVec.ofFin (w := 4) ch).getLsbD (i - 52) else op.code.getLsbD (i - 52 - 4) := by
  show (op.code ++ BitVec.ofFin (w := 4) ch ++ arg).getLsbD i = _
  simp only [BitVec.getLsbD_append]

theorem opcField_assemble (op : Opcode) (ch : Channel) (arg : BitVec 52) : opcField (assemble op ch arg) = op.code := by
  apply BitVec.eq_of_getLsbD_eq
  intro i hi
  rw [opcField, BitVec.getLsbD_extractLsb', assemble_getLsbD]
  simp only [hi, decide_true, Bool.true_and]
  rw [if_neg (by omega), if_neg (by omega)]
  congr 1
  omega

theorem chField_assemble (op : Opcode) (ch : Channel) (arg : BitVec 52) : chField (assemble op ch arg) = ch := by
  have h : (assemble op ch arg).extractLsb' 52 4 = BitVec.ofFin (w := 4) ch := by
    apply BitVec.eq_of_getLsbD_eq
    intro i hi
    rw [BitVec.getLsbD_extractLsb', assemble_getLsbD]
    simp only [hi, decide_true, Bool.true_and]
    rw [if_neg (by omega), if_pos (by omega)]
    congr 1
    omega
  rw [chField, h]

/-- The operation code found by its own number is the command's (rule R41). -/
theorem ofCode_code (op : Opcode) : Opcode.ofCode op.code = some op := by
  cases op <;> decide

/-- An operation code that is found has the number it was found by (rule R41). -/
theorem code_of_ofCode {c : BitVec 8} {op : Opcode} (h : Opcode.ofCode c = some op) : op.code = c := by
  unfold Opcode.ofCode at h
  simpa using List.find?_some h

end Sys2Proof
end

