-- ==== Sys2Proof/Laws/PerInstr.lean ====
section
/-! SUPPORT. Per-instruction families of LAWS.json. `OpcodeField`: the encoded word of every command carries the command's
operation code in `OPC` (rules R40, R41). -/

namespace Sys2Proof.Laws.OpcodeField

/-- `OPC` of the encoded command finds the command's own operation code. -/
def Statement (i : Instr) : Prop := Opcode.ofCode (opcField (encode i)) = some i.opcode

/-- Every encoded word is assembled from the command's operation code. -/
theorem of_assemble {i : Instr} (ch : Channel) (arg : BitVec 52) (h : encode i = assemble i.opcode ch arg) :
    Statement i := by
  rw [Statement, h, opcField_assemble, ofCode_code]

theorem resolve (target : Word) : Statement (.resolve target) := of_assemble _ _ rfl
theorem enablePwm (ch : Channel) (freq : Word) : Statement (.enablePwm ch freq) := of_assemble _ _ rfl
theorem setDuty (ch : Channel) (value : Word) : Statement (.setDuty ch value) := of_assemble _ _ rfl
theorem setDutyFast (ch : Channel) (value : Word) : Statement (.setDutyFast ch value) := of_assemble _ _ rfl
theorem getDuty (ch : Channel) : Statement (.getDuty ch) := of_assemble _ _ rfl
theorem enableTach (ch : Channel) (edge debounce : BitVec 2) (ppr : Byte) (exp : BitVec 4) (inv : Bool)
    (threshold : Word) : Statement (.enableTach ch edge debounce ppr exp inv threshold) := of_assemble _ _ rfl
theorem getRpm (ch : Channel) : Statement (.getRpm ch) := of_assemble _ _ rfl
theorem getMaxState (ch : Channel) : Statement (.getMaxState ch) := of_assemble _ _ rfl
theorem getCurState (ch : Channel) : Statement (.getCurState ch) := of_assemble _ _ rfl
theorem setCurState (ch : Channel) (state : Word) : Statement (.setCurState ch state) := of_assemble _ _ rfl
theorem cfgFailsafe (ch : Channel) (enabled : Bool) (edge : EdgeSelection) (point : Byte) :
    Statement (.cfgFailsafe ch enabled edge point) := of_assemble _ _ rfl
theorem cfgFlags (ch : Channel) (sync inverted : Bool) : Statement (.cfgFlags ch sync inverted) := of_assemble _ _ rfl
theorem cfgCoolClear (ch : Channel) : Statement (.cfgCoolClear ch) := of_assemble _ _ rfl
theorem cfgCoolLevel (ch : Channel) (level : Byte) : Statement (.cfgCoolLevel ch level) := of_assemble _ _ rfl

end Sys2Proof.Laws.OpcodeField
end

