-- ==== Sys2Proof/Laws/Resolver.lean ====
section
/-! SUPPORT. The divider search: what the scan order contains and in which order, and what the first hit is. Provers cite
these and do not unfold the scan. -/

namespace Sys2Proof.Machine

/-- The scan visits every pair of the 16 × 256 search space and no other (rule R60). -/
theorem mem_scanOrder (c f : Nat) : (c, f) ∈ scanOrder ↔ c < 16 ∧ f < 256 := by
  simp [scanOrder, Config.coarseCount, Config.fineCount]

/-- It visits them in lexicographic order: `coarse` ascending, then `fine` ascending (rule R60). -/
theorem scanOrder_sorted :
    scanOrder.Pairwise fun p q => p.1 < q.1 ∨ p.1 = q.1 ∧ p.2 < q.2 := by
  unfold scanOrder
  rw [List.pairwise_flatMap]
  refine ⟨fun c _ => ?_, ?_⟩
  · rw [List.pairwise_map]
    exact List.pairwise_lt_range.imp fun h => .inr ⟨rfl, h⟩
  · refine List.pairwise_lt_range.imp fun h p hp q hq => .inl ?_
    simp only [List.mem_map] at hp hq
    obtain ⟨_, _, rfl⟩ := hp
    obtain ⟨_, _, rfl⟩ := hq
    exact h

/-- A hit is in range, undercuts the target, and no earlier candidate does (rule R60). -/
theorem firstHit_some {base target c f : Nat} (h : firstHit base target = some (c, f)) :
    c < 16 ∧ f < 256 ∧ achievedAt base c f < target ∧
      ∀ c' f', c' < 16 → f' < 256 → (c' < c ∨ c' = c ∧ f' < f) → target ≤ achievedAt base c' f' := by
  unfold firstHit at h
  rw [List.find?_eq_some_iff_append] at h
  obtain ⟨hp, as, bs, hl, hlt⟩ := h
  have hm : (c, f) ∈ scanOrder := by rw [hl]; simp
  obtain ⟨h1, h2⟩ := (mem_scanOrder c f).1 hm
  refine ⟨h1, h2, by simpa using hp, fun c' f' hc hf hb => ?_⟩
  have hm' := (mem_scanOrder c' f').2 ⟨hc, hf⟩
  have hs := scanOrder_sorted
  rw [hl] at hm' hs
  have hafter := (List.pairwise_cons.1 (List.pairwise_append.1 hs).2.1).1
  rcases List.mem_append.1 hm' with hm' | hm'
  · simpa using hlt _ hm'
  · rcases List.mem_cons.1 hm' with he | hm'
    · cases he
      omega
    · have := hafter _ hm'
      dsimp only at this
      omega

/-- Without a hit no candidate undercuts the target (rule R62). -/
theorem firstHit_none {base target : Nat} (h : firstHit base target = none) :
    ∀ c f, c < 16 → f < 256 → target ≤ achievedAt base c f := by
  intro c f hc hf
  unfold firstHit at h
  rw [List.find?_eq_none] at h
  simpa using h (c, f) ((mem_scanOrder c f).2 ⟨hc, hf⟩)

/-- The base is a 24-bit number (rule R61). -/
theorem resolverBase_lt (clk : Word) : resolverBase clk < 2 ^ 24 := by
  have := clk.isLt
  unfold resolverBase Config.periodTicks
  omega

/-- Every achieved frequency fits the u32 it is stored in (rule R61). -/
theorem achievedAt_lt (clk : Word) (c f : Nat) : achievedAt (resolverBase clk) c f < 2 ^ 32 := by
  have := resolverBase_lt clk
  exact lt_of_le_of_lt (Nat.div_le_self _ _) (by omega)

end Sys2Proof.Machine
end

