-- ==== Sys2Proof/Tests/Slice0.lean ====
section
/-! SUPPORT. The model's own tests, and a witness for every statement with hypotheses.

The expected values come from the spec: the encodings of spec/30 section 6, the vectors S, V and the programs P of
spec/95, each named at its test. -/

namespace Sys2Proof.Tests

open Sys2Proof.Machine

/-! ### States the tests run on -/

/-- The machine of spec/95 part 3: 24 MHz, the defaults G8, no port faults, plain storage. -/
def p0 : Params := { defaultParams with plainStorage := true }

/-- The same with port faults possible. -/
def pf : Params := { p0 with portFaults := true }

/-- Engine registers all ones, so that a preserved bit shows. -/
def ones : Vector ChannelRegs 16 := Vector.replicate 16 ⟨0xFFFFFFFF#32, 0xFFFFFFFF#32, 0xFFFFFFFF#32⟩

/-- Spec/95 part 3: the reset state. -/
def s0 : State := State.resetWith p0 ones

/-- `s0` with a stored duty and given control and duty registers for channel 3. -/
def sDuty (d : Byte) (ctrl duty : Word) : State :=
  { s0 with pwm := s0.pwm.set 3 { s0.pwm[3] with dutyFallingPoint := d },
            regs := s0.regs.set 3 { s0.regs[3] with ctrl := ctrl, duty := duty } }

/-- `s0` with fail-safe enabled on channel 3 (`cfg_failsafe 3, 1, falling, 0x0a`). -/
def sFailsafe : State :=
  { s0 with pwm := s0.pwm.set 3 { s0.pwm[3] with watchdogFailsafe := ⟨true, .falling, 0x0A#8⟩ } }

/-- `s0` with the cooling device of S3 in slot 3. -/
def sCool (cur : Nat) : State :=
  { s0 with cool := s0.cool.set 3 (some ⟨3, [0#8, 64#8, 128#8, 255#8], cur⟩) }

/-- `s0` with a full cooling table in slot 3. -/
def sFull : State := { s0 with cool := s0.cool.set 3 (some ⟨3, List.replicate 256 1#8, 0⟩) }

/-- `s0` with the tachometer record of S2 on channel 0 and the status words the engine will answer with. -/
def sTach (ws : List Word) : State :=
  { s0 with tach := s0.tach.set 0 { s0.tach[0] with dividerExponent := 3#4, divider := 64#32 },
            answers := ws.map fun w => ⟨false, w⟩ }

/-- A machine whose engine faults the accesses marked `true`. -/
def sFaults (fs : List Bool) : State :=
  { State.resetWith pf ones with answers := fs.map fun f => ⟨f, 0xDEAD#32⟩ }

/-- What is observable of one outcome: the accesses and the responses (rule R153). -/
def seen : Host.Outcome State Fault Refusal → Option (List PortAccess × List ResponseWord)
  | .next t => some (t.trace, t.responses)
  | .fault _ => none
  | .refused _ => none

/-- The records of a channel after one outcome. -/
def pwmAfter (ch : Channel) : Host.Outcome State Fault Refusal → Option PwmChannelConfig
  | .next t => some t.pwm[ch]
  | .fault _ => none
  | .refused _ => none

def tachAfter (ch : Channel) : Host.Outcome State Fault Refusal → Option TachChannelConfig
  | .next t => some t.tach[ch]
  | .fault _ => none
  | .refused _ => none

def coolAfter (ch : Channel) : Host.Outcome State Fault Refusal → Option (Option CoolingDevice)
  | .next t => some t.cool[ch]
  | .fault _ => none
  | .refused _ => none

/-! ### Decoding: words of spec/30 section 6 and spec/95, bit by bit `OPC ++ CH ++ ARG` -/

theorem test_decode_resolve : (decode 0x01000000000061A8#64).toOption = some (.resolve 25000#32) := by decide
theorem test_decode_enablePwm : (decode 0x02300000000061A8#64).toOption = some (.enablePwm 3 25000#32) := by decide
theorem test_decode_setDuty : (decode 0x1030000000000080#64).toOption = some (.setDuty 3 128#32) := by decide
theorem test_decode_setDutyFast : (decode 0x1130000000000040#64).toOption = some (.setDutyFast 3 64#32) := by decide
theorem test_decode_getDuty : (decode 0x12F0000000000000#64).toOption = some (.getDuty 15) := by decide
theorem test_decode_enableTach : (decode 0x2000030200000000#64).toOption =
    some (.enableTach 0 0#2 0#2 2#8 3#4 false 0#32) := by decide
theorem test_decode_enableTach_all : (decode 0x2051EFFF000FFFFF#64).toOption =
    some (.enableTach 5 2#2 3#2 255#8 15#4 true 0xFFFFF#32) := by decide
theorem test_decode_getRpm : (decode 0x2100000000000000#64).toOption = some (.getRpm 0) := by decide
theorem test_decode_getMaxState : (decode 0x3030000000000000#64).toOption = some (.getMaxState 3) := by decide
theorem test_decode_getCurState : (decode 0x3130000000000000#64).toOption = some (.getCurState 3) := by decide
theorem test_decode_setCurState : (decode 0x3230000000000002#64).toOption = some (.setCurState 3 2#32) := by decide
theorem test_decode_cfgFailsafe : (decode 0x403000000000030A#64).toOption =
    some (.cfgFailsafe 3 true .falling 0x0A#8) := by decide
theorem test_decode_cfgFlags : (decode 0x4130000000000001#64).toOption = some (.cfgFlags 3 true false) := by decide
theorem test_decode_cfgCoolClear : (decode 0x4230000000000000#64).toOption = some (.cfgCoolClear 3) := by decide
theorem test_decode_cfgCoolLevel : (decode 0x4330000000000080#64).toOption = some (.cfgCoolLevel 3 128#8) := by decide

/-- V86 to V91, V93: words that spell no command. -/
theorem test_illegal_words :
    [0x0000000000000000#64, 0xFFFFFFFFFFFFFFFF#64, 0x01100000000061A8#64, 0x1230000000000001#64, 0x1030000100000000#64,
     0x2002000100000000#64, 0x0300000000000000#64].all (fun w => (decode w).toOption.isNone) = true := by decide

/-- V92: a duty of 256 is a legal spelling. -/
theorem test_decode_duty_256 : (decode 0x1030000000000100#64).toOption = some (.setDuty 3 256#32) := by decide

/-- `disable_pwm 3` is `set_duty 3, 0` (R48), word P1.8. -/
theorem test_disablePwm_word : encode (disablePwm 3) = 0x1030000000000000#64 := by decide

/-- The table numbers the word as the command word. -/
theorem test_decodeTableWord : decodeTableWord 64 0x1030000000000080 = some (.setDuty 3 128#32) := by decide

/-! ### WellFormed: an ill-formed term for each check -/

theorem test_wellFormed_refuses_duty : (Instr.setDuty 3 256#32).wellFormed = false := by decide
theorem test_wellFormed_refuses_duty_fast : (Instr.setDutyFast 3 256#32).wellFormed = false := by decide
theorem test_wellFormed_refuses_edge :
    (Instr.enableTach 0 3#2 0#2 2#8 3#4 false 0#32).wellFormed = false := by decide
theorem test_wellFormed_refuses_pulses :
    (Instr.enableTach 0 0#2 0#2 0#8 3#4 false 0#32).wellFormed = false := by decide
theorem test_wellFormed_refuses_threshold :
    (Instr.enableTach 0 0#2 0#2 2#8 3#4 false 0x100000#32).wellFormed = false := by decide
theorem test_wellFormed_accepts :
    (Instr.enableTach 5 2#2 3#2 255#8 15#4 true 0xFFFFF#32).wellFormed = true := by decide

/-! ### Text (R47) -/

theorem test_text_enable_tach :
    commandText (.enableTach 0 0#2 0#2 2#8 3#4 false 0#32) = some "enable_tach 0, f2f, 0, 2, 3, 0, 0" := by decide
theorem test_text_cfg_failsafe :
    commandText (.cfgFailsafe 3 true .falling 10#8) = some "cfg_failsafe 3, 1, falling, 10" := by decide

/-! ### One step of each command -/

/-- P4.1. -/
theorem test_resolve_25000 : seen (exec (.resolve 25000#32) s0) = some ([], [0x0000000300005B8D#64]) := by decide

/-- P4.3 (V5): 366 is met with equality at (0,255), so the scan moves on. -/
theorem test_resolve_366 : seen (exec (.resolve 366#32) s0) = some ([], [0x000001800000016B#64]) := by decide

/-- P1.2, with fail-safe enabled. -/
theorem test_enablePwm_failsafe : seen (exec (.enablePwm 3 25000#32) sFailsafe) =
    some ([.write 0x034 0xFF0A000A#32, .write 0x030 0x000C0003#32, .read 0x030 0x000C0003#32,
      .write 0x030 0x000D1003#32], [0#64]) := by decide

/-- V42: a stored duty of 0 disables, and still commits target and cache. -/
theorem test_enablePwm_duty_zero : pwmAfter 3 (exec (.enablePwm 3 1000#32) (sDuty 0#8 0x11003#32 0#32)) =
    some ⟨1000#32, 997#32, 0#4, 93#8, 0#8, ⟨false, .falling, 16#8⟩, false, false⟩ := by decide

/-- V25. -/
theorem test_setDuty_128 : seen (exec (.setDuty 3 128#32) s0) =
    some ([.write 0x034 0xFF000080#32, .write 0x030 0x00000003#32, .read 0x030 0x00000003#32,
      .write 0x030 0x00011003#32], [0#64]) := by decide

/-- The disable step on `0xFFFF_FFFF` writes `0xFFFE_EFFF` (after V32). -/
theorem test_setDuty_zero : seen (exec (.setDuty 3 0#32) s0) =
    some ([.read 0x030 0xFFFFFFFF#32, .write 0x030 0xFFFEEFFF#32], [0#64]) := by decide

/-- V36. -/
theorem test_setDutyFast_enabled : seen (exec (.setDutyFast 3 64#32) (sDuty 128#8 0x11003#32 0xFF000080#32)) =
    some ([.read 0x034 0xFF000080#32, .write 0x034 0xFF000040#32], [0#64]) := by decide

/-- V37. -/
theorem test_setDutyFast_from_zero : seen (exec (.setDutyFast 3 64#32) (sDuty 0#8 0x00000003#32 0xFF000080#32)) =
    some ([.read 0x034 0xFF000080#32, .write 0x034 0xFF000040#32, .read 0x030 0x00000003#32,
      .write 0x030 0x00011003#32], [0#64]) := by decide

/-- V41. -/
theorem test_getDuty_default : seen (exec (.getDuty 7) s0) = some ([], [10#64]) := by decide

/-- V71. -/
theorem test_enableTach_word : seen (exec (.enableTach 5 2#2 3#2 255#8 15#4 true 0xFFFFF#32) s0) =
    some ([.write 0x058 0x5EFFFFFF#32], [0#64]) := by decide

/-- V71. -/
theorem test_enableTach_record : tachAfter 5 (exec (.enableTach 5 2#2 3#2 255#8 15#4 true 0xFFFFF#32) s0) =
    some ⟨.both, 3#2, 255#8, 15#4, true, 0xFFFFF#32, 1073741824#32⟩ := by decide

/-- V64. -/
theorem test_getRpm_third_read : seen (exec (.getRpm 0) (sTach [0x63#32, 0x63#32, 0x1005DB#32])) =
    some ([.read 0x00C 0x63#32, .read 0x00C 0x63#32, .read 0x00C 0x1005DB#32], [7500#64]) := by decide

/-- V66: never complete, converted all the same, `stale` set. -/
theorem test_getRpm_stale : seen (exec (.getRpm 0) (sTach [0x63#32, 0x63#32, 0x63#32])) =
    some ([.read 0x00C 0x63#32, .read 0x00C 0x63#32, .read 0x00C 0x63#32], [0x000000010001B774#64]) := by decide

/-- V77. -/
theorem test_getMaxState : seen (exec (.getMaxState 3) (sCool 0)) = some ([], [3#64]) := by decide

/-- P3.9. -/
theorem test_getCurState : seen (exec (.getCurState 3) (sCool 2)) = some ([], [2#64]) := by decide

/-- V78. -/
theorem test_setCurState_program : seen (exec (.setCurState 3 2#32) (sCool 0)) =
    some ([.write 0x034 0xFF000080#32, .write 0x030 0x00000003#32, .read 0x030 0x00000003#32,
      .write 0x030 0x00011003#32], [0#64]) := by decide

/-- V79. -/
theorem test_setCurState_above : seen (exec (.setCurState 3 4#32) (sCool 2)) =
    some ([], [0x1000000000000000#64]) := by decide

/-- P1.1: the record that P1.2 uses. -/
theorem test_cfgFailsafe : (pwmAfter 3 (exec (.cfgFailsafe 3 true .falling 0x0A#8) s0)).map (·.watchdogFailsafe) =
    some ⟨true, .falling, 0x0A#8⟩ := by decide

/-- R116, example. -/
theorem test_cfgFlags : (pwmAfter 3 (exec (.cfgFlags 3 true false) s0)).map
    (fun r => (r.dutySyncDisabled, r.outputInverted)) = some (true, false) := by decide

/-- V83. -/
theorem test_cfgCoolClear : coolAfter 3 (exec (.cfgCoolClear 3) (sCool 2)) = some none := by decide

/-- V76. -/
theorem test_cfgCoolLevel_creates : coolAfter 3 (exec (.cfgCoolLevel 3 0#8) s0) = some (some ⟨3, [0#8], 0⟩) := by decide

/-- V82. -/
theorem test_cfgCoolLevel_full : seen (exec (.cfgCoolLevel 3 1#8) sFull) =
    some ([], [0x1000000000000000#64]) := by decide +kernel

/-! ### Functions and steps -/

/-- V16, V17: the same fields, exhausted or not. -/
theorem test_resolve_exhaustion_closed :
    achievedAt (resolverBase 0xFFFFFFFF#32) 15 255 = 1 := by decide

/-- V51 and V58: divide first; reduce modulo `2^32`. -/
theorem test_rpm_order_and_width :
    rpm 24000000#32 22#20 1#32 1#8 = 62608680#32 ∧ rpm 200000000#32 0#20 1#32 1#8 = 3410065408#32 := by decide

/-- V56: the product is `2^32` and does not wrap. -/
theorem test_rpm_exact_product : rpm 24000000#32 3#20 1073741824#32 1#8 = 0#32 := by decide

/-- S4 (V28). -/
theorem test_words_failsafe :
    dutyWord sFailsafe.pwm[3] 128#8 = 0xFF0A0080#32 ∧ ctrlWord sFailsafe.pwm[3] 0#4 3#8 = 0x000C0003#32 := by decide

/-- P4.6: an all-zeros word is rejected by the step. -/
theorem test_step_illegal : seen (step { s0 with inputs := [.command 0#64] }) =
    some ([], [0x3000000000000000#64]) := by decide

/-- The host's next input is the word `withFetchWord` presents. -/
theorem test_step_withFetchWord : seen (step (s0.withFetchWord 64 0x12F0000000000000)) = some ([], [10#64]) := by decide

/-- R140: a reset between commands makes every slot absent; a reset during a command is refused (spec/93 U11). -/
theorem test_step_reset :
    coolAfter 3 (step { sCool 2 with inputs := [.reset] }) = some none ∧
      coolAfter 3 (step { sCool 2 with inputs := [.resetDuring 0#64] }) = none := by decide

/-- R38, R145: the control write faults; the command stops there with `BUS_FAULT`. -/
theorem test_setDuty_control_fault : seen (exec (.setDuty 3 128#32) (sFaults [false, true])) =
    some ([.write 0x034 0xFF000080#32, .writeFault 0x030 0x00000003#32], [0x2000000000000000#64]) := by decide

/-! ### Witnesses: concrete states and operands that meet the hypotheses of each statement -/

/-- No fault lies ahead where the engine cannot fault. -/
theorem noFault (n : Nat) (s : State) (h : s.params.portFaults = false) : NoFaultAhead n s :=
  noFaultAhead_of_portFaults_false h n

/-- No fault lies ahead in a machine that can fault either, when the engine lists clean answers. -/
theorem witness_noFaultAhead_with_portFaults :
    (sFaults [false, false, false, false]).params.portFaults = true ∧
      NoFaultAhead 4 (sFaults [false, false, false, false]) := by
  refine ⟨by decide, ?_⟩
  exact ⟨by decide, by decide, by decide, by decide, trivial⟩

theorem witness_EncodeOfDecodeIsTheWord :
    ∃ i, decode 0x1030000000000080#64 = .ok i := ⟨.setDuty 3 128#32, by rfl⟩

theorem witness_DecodesExactlyTheTableRows :
    (⟨.setDuty, 0x1000000000000000#64, 0xFF0FFFFF00000000#64⟩ : TableRow) ∈ opcodeTable ∧
      TableRow.matchesWord ⟨.setDuty, 0x1000000000000000#64, 0xFF0FFFFF00000000#64⟩ 0x1030000000000080#64 = true ∧
      decode 0x1030000000000080#64 = .ok (.setDuty 3 128#32) := ⟨by decide, by decide, by rfl⟩

theorem witness_TableRowsAreDisjoint :
    (⟨.setDuty, 0x1000000000000000#64, 0xFF0FFFFF00000000#64⟩ : TableRow) ∈ opcodeTable ∧
      TableRow.matchesWord ⟨.setDuty, 0x1000000000000000#64, 0xFF0FFFFF00000000#64⟩ 0x1030000000000080#64 = true :=
  by decide

/-- The four clauses: a command, an illegal word, no input, a reset during a command. -/
theorem witness_StepRunsTheNextInput :
    ({ s0 with inputs := [.command 0x12F0000000000000#64] } : State).inputs = .command 0x12F0000000000000#64 :: [] ∧
      decode 0x12F0000000000000#64 = .ok (.getDuty 15) ∧
      decode 0#64 = .error (.unassignedOpcode 0#8) ∧ s0.inputs = [] ∧
      ({ s0 with inputs := [.resetDuring 0#64] } : State).inputs = .resetDuring 0#64 :: [] :=
  ⟨rfl, by rfl, by rfl, rfl, rfl⟩

/-- V86 meets the first premise, V88 the second, V92 the third. -/
theorem witness_IllegalWordsAndOnlyTheyAreRejected :
    (∀ op ∈ Opcode.all, op.code ≠ opcField 0#64) ∧
      (Opcode.resolve.code = opcField 0x01100000000061A8#64 ∧
        0x01100000000061A8#64 &&& Opcode.resolve.mustBeZero ≠ 0#64) ∧
      (Opcode.setDuty.code = opcField 0x1030000000000100#64 ∧
        0x1030000000000100#64 &&& Opcode.setDuty.mustBeZero = 0#64) := by decide

theorem witness_EveryCommandReturnsOneResponse :
    ({ s0 with inputs := [.command 0x12F0000000000000#64] } : State).inputs = .command 0x12F0000000000000#64 :: [] := rfl

/-- V92 completes with a status other than `OK`. -/
theorem witness_FailedCommandLeavesTheStore :
    ({ s0 with inputs := [.command 0x1030000000000100#64] } : State).inputs = .command 0x1030000000000100#64 :: [] ∧
      step { s0 with inputs := [.command 0x1030000000000100#64] } = .next (s0.raise .outOfRange) ∧
      Returns s0 (s0.raise .outOfRange) 0x1000000000000000#64 ∧
      (0x1000000000000000#64).extractLsb' 60 4 ≠ 0#4 := ⟨rfl, by rfl, by rfl, by decide⟩

/-- Both sides of the equivalence: an `ENABLE_TACH` whose only access faults, and a `GET_DUTY` that issues none. -/
theorem witness_BusFaultExactlyOnAFaultedAccess :
    seen (step { sFaults [true] with inputs := [.command 0x2000030200000000#64] }) =
        some ([.writeFault 0x008 0x10300000#32], [0x2000000000000000#64]) ∧
      seen (step { s0 with inputs := [.command 0x12F0000000000000#64] }) = some ([], [10#64]) := by decide

theorem witness_BlockResetRestoresTheStore :
    ({ sCool 2 with inputs := [.reset] } : State).inputs = .reset :: [] := rfl

theorem witness_ResetMeetsTheInvariant : ParamsLegal defaultParams := ⟨by decide, by decide⟩

theorem s0_inv : s0.Inv := by
  refine ⟨⟨⟨by decide, by decide⟩, fun ch => ?_, fun ch d h => ?_⟩, fun _ ha => absurd ha List.not_mem_nil,
    fun _ hr => absurd hr List.not_mem_nil⟩
  · have h : ∀ c : Channel, s0.tach[c] = TachChannelConfig.ofDefaults defaultTach := by decide
    rw [h ch]
    exact ⟨by decide, by decide, by decide⟩
  · have hc : ∀ c : Channel, s0.cool[c] = none := by decide
    rw [hc ch] at h
    cases h

theorem witness_StepKeepsTheInvariant : s0.Inv ∧ step s0 = .next s0 := ⟨s0_inv, rfl⟩

/-- The enables of channel 3 match its duty, set and clear. -/
theorem witness_CommandsKeepEnablesMatchingDuty :
    (sDuty 128#8 0x11003#32 0xFF000080#32).params.plainStorage = true ∧
      NoFaultAhead 4 (sDuty 128#8 0x11003#32 0xFF000080#32) ∧
      EnablesMatchDuty (sDuty 128#8 0x11003#32 0xFF000080#32) 3 ∧
      EnablesMatchDuty (sDuty 0#8 0x00003#32 0xFF000080#32) 3 :=
  ⟨rfl, noFault _ _ rfl, by unfold EnablesMatchDuty; decide, by unfold EnablesMatchDuty; decide⟩

/-- A success of each of the four commands (V25, P1.2, V78, V37). -/
theorem witness_ProgrammingMakesEnablesMatchDuty :
    s0.params.plainStorage = true ∧ (seen (exec (.setDuty 3 128#32) s0)).map (·.2) = some [0#64] ∧
      (seen (exec (.enablePwm 3 25000#32) s0)).map (·.2) = some [0#64] ∧
      (seen (exec (.setCurState 3 2#32) (sCool 0))).map (·.2) = some [0#64] ∧
      (seen (exec (.setDutyFast 3 64#32) (sDuty 0#8 3#32 0xFF000080#32))).map (·.2) = some [0#64] ∧
      (sDuty 0#8 3#32 0xFF000080#32).pwm[(3 : Channel)].dutyFallingPoint = 0#8 := by decide

theorem witness_FastPathAloneCanLeaveEnablesClear :
    p0.plainStorage = true ∧ p0.portFaults = false ∧ p0.defPwm.dutyFallingPoint ≠ 0#8 := by decide

/-- The cache is valid after `ENABLE_PWM`, in a concrete state; the other clauses' successes are those of
`witness_ProgrammingMakesEnablesMatchDuty`. -/
theorem witness_CacheIsValidOnceWritten :
    pwmAfter 3 (exec (.enablePwm 3 25000#32) s0) =
        some ⟨25000#32, 23437#32, 0#4, 3#8, 10#8, ⟨false, .falling, 16#8⟩, false, false⟩ ∧
      (pwmAfter 3 (exec (.setCurState 3 2#32) (sCool 0))).map (·.dutyFallingPoint) = some 128#8 := by decide

theorem witness_CommandTouchesOnlyItsChannel : channelOf (.setDuty 3 128#32) ≠ some 4 := by decide

/-- A field that does change, for each conclusion. -/
theorem witness_StoreFieldsAreWrittenOnlyByTheirCommands :
    (pwmAfter 3 (exec (.enablePwm 3 1000#32) s0)).map (·.targetFrequencyHz) ≠ some s0.pwm[(3 : Channel)].targetFrequencyHz ∧
      (pwmAfter 3 (exec (.setDuty 3 128#32) s0)).map (·.dutyFallingPoint) ≠ some s0.pwm[(3 : Channel)].dutyFallingPoint ∧
      (pwmAfter 3 (exec (.setDuty 3 128#32) s0)).map (·.fine) ≠ some s0.pwm[(3 : Channel)].fine ∧
      (pwmAfter 3 (exec (.cfgFailsafe 3 true .rising 1#8) s0)).map (·.watchdogFailsafe) ≠
        some s0.pwm[(3 : Channel)].watchdogFailsafe ∧
      (pwmAfter 3 (exec (.cfgFlags 3 true true) s0)).map (·.outputInverted) ≠ some s0.pwm[(3 : Channel)].outputInverted ∧
      tachAfter 5 (exec (.enableTach 5 2#2 3#2 255#8 15#4 true 0xFFFFF#32) s0) ≠ some s0.tach[(5 : Channel)] ∧
      coolAfter 3 (exec (.cfgCoolLevel 3 0#8) s0) ≠ some s0.cool[(3 : Channel)] := by decide

/-- Two machines that differ in the engine's registers and answers only. -/
theorem witness_EngineCannotInfluenceTheStore :
    KeepsStore s0 (State.resetWith p0 (Vector.replicate 16 ⟨0#32, 0#32, 0#32⟩)) ∧
      s0.params.portFaults = false ∧ opcField 0x1030000000000080#64 ≠ 0x21#8 :=
  ⟨⟨rfl, rfl, rfl⟩, rfl, by decide⟩

/-- V20 is exhausted, V1 is not. -/
theorem witness_ResolveIsTheFirstHitOrTheLastCandidate :
    (resolve 24000000#32 25000#32).exhausted = false ∧ (resolve 0#32 0#32).exhausted = true := by
  refine ⟨by decide, ?_⟩
  have h : firstHit (resolverBase 0#32) (0#32).toNat = none := List.find?_eq_none.2 (by simp)
  unfold resolve
  rw [h]

/-- V5: `c = 1` is the least coarse that fits, and `c' = 0` does not; V13 meets the other premise. -/
theorem witness_ResolveHasTheClosedForm :
    (1 < 16 ∧ (366#32).toNat ≠ 0 ∧ 24000000 / 256 / (366 * 2 ^ 1) ≤ 255 ∧ 255 < 24000000 / 256 / (366 * 2 ^ 0)) ∧
      (0#32).toNat = 0 := by decide

theorem witness_ExhaustionCondition : (24000000#32).toNat < 2 ^ 31 := by decide

/-- V1: another hit of the space, (0, 4), has a larger divisor. -/
theorem witness_ResolveHitHasTheSmallestDivisor :
    (resolve 24000000#32 25000#32).exhausted = false ∧ 0 < 16 ∧ 4 < 256 ∧
      (24000000#32).toNat / 256 / (2 ^ 0 * (4 + 1)) < (25000#32).toNat := by decide

/-- The ends of the range `1 .. 255`. -/
theorem witness_DutyWordFields : (1#8 : Byte) ≠ 0#8 ∧ (255#8 : Byte) ≠ 0#8 := by decide

theorem witness_PlainStorageReadsBackTheLastWrite :
    s0.params.plainStorage = true ∧ NoFaultAhead 3 s0 ∧ RegKind.ctrl ≠ .tsts ∧
      ((3 : Channel) ≠ 4 ∨ RegKind.duty ≠ .ctrl) := ⟨rfl, noFault _ _ rfl, by decide, by decide⟩

/-- The tach-status register under plain storage, and the control register without it. -/
theorem witness_EngineAnswersReadsWithAnyWord :
    (sTach [0x63#32]).answers = { faults := false, word := 0x63#32 } :: [] ∧
      ({ s0 with params := defaultParams } : State).params.plainStorage = false := by decide

theorem witness_RegUpdateReadsThenWrites :
    NoFaultAhead 2 s0 ∧ (sFaults [true]).portFault = true := ⟨noFault _ _ rfl, by decide⟩

/-- The ends of the range `1 .. 255`. -/
theorem witness_SetDutyRunsTheFullPath :
    1 ≤ (1#32).toNat ∧ (1#32).toNat ≤ 255 ∧ 1 ≤ (255#32).toNat ∧ (255#32).toNat ≤ 255 ∧ NoFaultAhead 4 s0 :=
  ⟨by decide, by decide, by decide, by decide, noFault _ _ rfl⟩

theorem witness_DutyZeroDisablesTheChannel : NoFaultAhead 2 s0 := noFault _ _ rfl

theorem witness_DutyAbove255IsRejected : 255 < (256#32).toNat := by decide

/-- A stored duty that is 0, and one that is not. -/
theorem witness_SetDutyFastWritesTheFallingByte :
    (sDuty 0#8 3#32 0xFF000080#32).pwm[(3 : Channel)].dutyFallingPoint = 0#8 ∧
      (sDuty 128#8 3#32 0xFF000080#32).pwm[(3 : Channel)].dutyFallingPoint ≠ 0#8 ∧
      1 ≤ (255#32).toNat ∧ (255#32).toNat ≤ 255 ∧ NoFaultAhead 4 (sDuty 0#8 3#32 0xFF000080#32) :=
  ⟨by decide, by decide, by decide, by decide, noFault _ _ rfl⟩

theorem witness_EnablePwmProgramsTheStoredDuty :
    s0.pwm[(3 : Channel)].dutyFallingPoint ≠ 0#8 ∧ NoFaultAhead 4 s0 := ⟨by decide, noFault _ _ rfl⟩

theorem witness_EnablePwmWithDutyZeroDisables :
    (sDuty 0#8 0x11003#32 0#32).pwm[(3 : Channel)].dutyFallingPoint = 0#8 ∧ NoFaultAhead 2 (sDuty 0#8 0x11003#32 0#32) :=
  ⟨by decide, noFault _ _ rfl⟩

/-- The ends of the range `0 .. 255`. -/
theorem witness_DutyRoundTrip : (0#32).toNat ≤ 255 ∧ (255#32).toNat ≤ 255 ∧ NoFaultAhead 4 s0 :=
  ⟨by decide, by decide, noFault _ _ rfl⟩

theorem witness_SetDutyIsIdempotent :
    (255#32).toNat ≤ 255 ∧ s0.params.plainStorage = true ∧ NoFaultAhead 8 s0 := ⟨by decide, rfl, noFault _ _ rfl⟩

theorem witness_TwoEncodingsOfDuty255 : s0.params.plainStorage = true ∧ NoFaultAhead 8 s0 := ⟨rfl, noFault _ _ rfl⟩

theorem witness_FaultedControlWriteLeavesAMixedState :
    1 ≤ (128#32).toNat ∧ (128#32).toNat ≤ 255 ∧ (sFaults [false, true]).params.portFaults = true ∧
      (sFaults [false, true]).answers =
        { faults := false, word := 0xDEAD#32 } :: { faults := true, word := 0xDEAD#32 } :: [] := by decide

/-- The ends of the ranges. -/
theorem witness_EnableTachWritesAndStoresTheRecord :
    (1#8 : Byte) ≠ 0#8 ∧ (0xFFFFF#32).toNat ≤ 0xFFFFF ∧ NoFaultAhead 1 s0 := ⟨by decide, by decide, noFault _ _ rfl⟩

theorem witness_EnableTachRejectsIllegalOperands : 0xFFFFF < (0x100000#32).toNat := by decide

theorem witness_GetRpmConvertsTheLastStatusRead : NoFaultAhead 3 (sTach [0x100063#32]) := noFault _ _ rfl

/-- V63, V67 and V66: the flag at the first read, at the second, never. -/
theorem witness_PollTakesTheEngineAnswersInOrder :
    (sTach [0x100063#32, 0#32, 0#32]).params.portFaults = false ∧
      (0x100063#32).getLsbD 20 = true ∧ (0x63#32).getLsbD 20 = false ∧
      (sTach [1#32, 2#32, 3#32]).answers = { faults := false, word := 1#32 } :: { faults := false, word := 2#32 } ::
        { faults := false, word := 3#32 } :: [] := by decide

/-- The sentinel, and the count before it (V50). -/
theorem witness_RpmDividesFirstThenMultiplies :
    1 ≤ (1#32).toNat ∧ 1 ≤ (1#8).toNat ∧ (0xFFFFE#20 : BitVec 20) ≠ 0xFFFFF#20 := by decide

/-- V59 is the largest quotient that is not reduced. -/
theorem witness_RpmFallsWithTheCount :
    1 ≤ (1#32).toNat ∧ 1 ≤ (1#8).toNat ∧ (0#20 : BitVec 20) ≠ 0xFFFFF#20 ∧ (0#20).toNat ≤ (0xFFFFF#20).toNat ∧
      (71582788#32).toNat / (((0#20).toNat + 1) * (1#32).toNat * (1#8).toNat) ≤ 71582788 := by decide

theorem witness_CoolingAccessorsReturnTheStates :
    (sCool 2).cool[(3 : Channel)] = some ⟨3, [0#8, 64#8, 128#8, 255#8], 2⟩ := by decide

theorem witness_AbsentSlotReturnsNoDevice : s0.cool[(3 : Channel)] = none := by decide

/-- The last state of S3's table. -/
theorem witness_SetCurStateProgramsTheLevel :
    (sCool 0).cool[(3 : Channel)] = some ⟨3, [0#8, 64#8, 128#8, 255#8], 0⟩ ∧
      [0#8, 64#8, 128#8, 255#8][(3#32).toNat]? = some 255#8 ∧ (255#8 : Byte) ≠ 0#8 ∧ NoFaultAhead 4 (sCool 0) :=
  ⟨by decide, by decide, by decide, noFault _ _ rfl⟩

theorem witness_SetCurStateWithLevelZeroDisables :
    (sCool 2).cool[(3 : Channel)] = some ⟨3, [0#8, 64#8, 128#8, 255#8], 2⟩ ∧
      [0#8, 64#8, 128#8, 255#8][(0#32).toNat]? = some 0#8 ∧ NoFaultAhead 2 (sCool 2) :=
  ⟨by decide, by decide, noFault _ _ rfl⟩

theorem witness_SetCurStateAboveMaxIsRejected :
    (sCool 2).cool[(3 : Channel)] = some ⟨3, [0#8, 64#8, 128#8, 255#8], 2⟩ ∧
      1 ≤ [0#8, 64#8, 128#8, 255#8].length ∧ [0#8, 64#8, 128#8, 255#8].length - 1 < (4#32).toNat := by decide

theorem witness_CoolingStateRoundTrip :
    (sCool 0).cool[(3 : Channel)] = some ⟨3, [0#8, 64#8, 128#8, 255#8], 0⟩ ∧
      [0#8, 64#8, 128#8, 255#8][(2#32).toNat]? = some 128#8 ∧ NoFaultAhead 4 (sCool 0) :=
  ⟨by decide, by decide, noFault _ _ rfl⟩

/-- The three cases: absent, room for one more, full. -/
theorem witness_CoolLevelCreatesOrAppends :
    s0.cool[(3 : Channel)] = none ∧ (sCool 0).cool[(3 : Channel)] = some ⟨3, [0#8, 64#8, 128#8, 255#8], 0⟩ ∧
      sFull.cool[(3 : Channel)] = some ⟨3, List.replicate 256 1#8, 0⟩ ∧ (List.replicate 256 1#8).length = 256 :=
  ⟨by decide, by decide, by decide +kernel, List.length_replicate⟩

end Sys2Proof.Tests
end

section
/-! PROOF. The state after reset meets the machine's invariant: the defaults make a legal store, and nothing has been
issued or answered. -/

namespace Sys2Proof.Machine

/-- Rule R91 without wrap-around: `2 * exponent` is at most 30, so the one bit stays inside the word. -/
theorem channelDivider_toNat (exponent : BitVec 4) : (channelDivider exponent).toNat = 4 ^ exponent.toNat := by
  have hexp : 2 * exponent.toNat < 32 := by have := exponent.isLt; omega
  have hfits : 2 ^ (2 * exponent.toNat) < 2 ^ 32 := Nat.pow_lt_pow_right (by decide) hexp
  calc (channelDivider exponent).toNat
      = 2 ^ (2 * exponent.toNat) % 2 ^ 32 := by simp [channelDivider, Nat.shiftLeft_eq]
    _ = 2 ^ (2 * exponent.toNat) := Nat.mod_eq_of_lt hfits
    _ = 4 ^ exponent.toNat := pow_mul 2 2 exponent.toNat

theorem tachLegal_ofDefaults {p : Params} (h : ParamsLegal p) : TachLegal (TachChannelConfig.ofDefaults p.defTach) := by
  obtain ⟨hpulses, hthreshold⟩ := h
  exact ⟨hpulses, channelDivider_toNat p.defTach.dividerExponent, hthreshold⟩

theorem coolLegal_none (ch : Channel) : CoolLegal ch none := fun _ h => nomatch h

/-- Any state whose store stands at its defaults, as after reset and after `State.blockReset`, has a legal store. -/
theorem storeLegal_of_defaults {s : State} (hparams : ParamsLegal s.params)
    (htach : s.tach = Vector.replicate 16 (TachChannelConfig.ofDefaults s.params.defTach))
    (hcool : s.cool = Vector.replicate 16 none) : StoreLegal s := by
  refine ⟨hparams, fun ch => ?_, fun ch => ?_⟩
  · simpa [htach] using tachLegal_ofDefaults hparams
  · simpa [hcool] using coolLegal_none ch

theorem resetWith_inv {p : Params} (regs : Vector ChannelRegs 16) (h : ParamsLegal p) : (State.resetWith p regs).Inv := by
  have hstore : StoreLegal (State.resetWith p regs) :=
    storeLegal_of_defaults h (State.resetWith_tach p regs) (State.resetWith_cool p regs)
  exact ⟨hstore, by simp, by simp⟩

/-- Settles O13: with legal parameters the defaults make a legal store, the trace and the responses are empty, and the
parameters of `State.reset` are legal. -/
theorem resetMeetsTheInvariant : Obligations.ResetMeetsTheInvariant :=
  ⟨fun _ regs h => resetWith_inv regs h, resetWith_inv engineRegsAtReset ⟨by decide, by decide⟩⟩

end Sys2Proof.Machine
end

section
/-! PROOF. The step function taken apart: what `step` does with each kind of input, and the inversions of a step that
answers a next state. With them the sequencer's own obligations: the next input, a reset between commands, the store after
reset, and a read of what the engine answers. -/

namespace Sys2Proof.Machine

section Inputs

variable {s t : State} {w : CommandWord} {rest : List HostInput}

/-! ### One equation for each kind of input -/

theorem dropInput_of_cons {a : HostInput} (h : s.inputs = a :: rest) : s.dropInput = { s with inputs := rest } := by
  rw [State.dropInput, h, List.tail_cons]

theorem step_of_noInput (h : s.inputs = []) : step s = .next s := by
  simp [step, h, State.idle]

theorem step_of_reset (h : s.inputs = .reset :: rest) : step s = .next s.dropInput.blockReset := by
  simp [step, h]

theorem step_of_resetDuring (h : s.inputs = .resetDuring w :: rest) : step s = .refused .resetMidCommand := by
  simp [step, h]

theorem step_of_command {i : Instr} (h : s.inputs = .command w :: rest) (hd : decode w = .ok i) :
    step s = exec i s.dropInput := by
  simp [step, h, hd]

theorem step_of_illegalWord {e : DecodeReject} (h : s.inputs = .command w :: rest) (hd : decode w = .error e) :
    step s = .next s.dropInput.rejectWord := by
  simp [step, h, hd]

/-! ### Inversions -/

/-- A command word is rejected, or it spells a command and is run. -/
theorem step_command_cases (h : s.inputs = .command w :: rest) (hs : step s = .next t) :
    t = s.dropInput.rejectWord ∨ ∃ i, decode w = .ok i ∧ exec i s.dropInput = .next t := by
  cases hd : decode w with
  | error e =>
    rw [step_of_illegalWord h hd] at hs
    cases hs
    exact .inl rfl
  | ok i =>
    rw [step_of_command h hd] at hs
    exact .inr ⟨i, rfl, hs⟩

/-- A step that answers a next state has idled, reset the store, rejected a word or run a command. -/
theorem step_cases (hs : step s = .next t) :
    t = s ∨ t = s.dropInput.blockReset ∨ t = s.dropInput.rejectWord ∨ ∃ i, exec i s.dropInput = .next t := by
  rcases h : s.inputs with _ | ⟨w | _ | w, rest⟩
  · rw [step_of_noInput h] at hs
    cases hs
    exact .inl rfl
  · rcases step_command_cases h hs with ht | ⟨i, -, hi⟩
    · exact .inr (.inr (.inl ht))
    · exact .inr (.inr (.inr ⟨i, hi⟩))
  · rw [step_of_reset h] at hs
    cases hs
    exact .inr (.inl rfl)
  · rw [step_of_resetDuring h] at hs
    cases hs

end Inputs

/-! ### The sequencer's obligations -/

/-- The state after a rejected word, written out: status 3 and no other bit set (rule R126). -/
theorem rejectWord_eq (s : State) :
    s.rejectWord = { s with responses := s.responses ++ [0x3000000000000000#64] } := rfl

/-- Settles O6: one clause for each kind of input, by the equations of `step`. -/
theorem stepRunsTheNextInput : Obligations.StepRunsTheNextInput := by
  refine ⟨fun s w rest i h hd => ?_, fun s w rest e h hd => ?_, fun s h => step_of_noInput h,
    fun s w rest h => step_of_resetDuring h⟩
  · rw [step_of_command h hd, dropInput_of_cons h]
  · rw [step_of_illegalWord h hd, dropInput_of_cons h, rejectWord_eq]

/-- Settles O11: the step on a reset is `State.blockReset`, whose store is that of `State.resetWith`. -/
theorem blockResetRestoresTheStore : Obligations.BlockResetRestoresTheStore := by
  intro s rest h
  refine ⟨_, step_of_reset h, ?_⟩
  simp [IssuesNothing, h]

/-- Settles O12: every array is a replicated default, and the divider of the default is `2 ^ (2 * exponent)`. -/
theorem resetStoreHoldsTheDefaults : Obligations.ResetStoreHoldsTheDefaults := by
  intro p regs ch
  have hdivider : channelDivider p.defTach.dividerExponent
      = BitVec.ofNat 32 (2 ^ (2 * p.defTach.dividerExponent.toNat)) := by
    rw [pow_mul, show 2 ^ 2 = 4 from rfl, ← channelDivider_toNat, BitVec.ofNat_toNat, BitVec.setWidth_eq]
  refine ⟨?_, ?_, ?_, rfl, rfl⟩
  · simp [PwmChannelConfig.ofDefaults]
  · simp [TachChannelConfig.ofDefaults, hdivider]
  · simp

/-! ### A read of what the engine answers -/

/-- Without plain storage, and always for the tach-status register, a read takes the engine's word (rules R32, R33). -/
theorem readValue_of_volatile {s : State} {ch : Channel} {k : RegKind} (h : k = .tsts ∨ s.params.plainStorage = false) :
    s.readValue ch k = s.nextAnswer.word := by
  rcases h with rfl | h
  · simp [State.readValue]
  · simp [State.readValue, h]

theorem nextAnswer_of_cons {s : State} {a : EngineAnswer} {answers : List EngineAnswer} (h : s.answers = a :: answers) :
    s.nextAnswer = a := by
  simp [State.nextAnswer, h]

/-- Settles O32: the listed answer is no fault and its word is what the read returns and records. -/
theorem engineAnswersReadsWithAnyWord : Obligations.EngineAnswersReadsWithAnyWord := by
  intro s ch k v rest h hk
  have hnext : s.nextAnswer = { faults := false, word := v } := nextAnswer_of_cons h
  have hfault : s.portFault = false := by simp [State.portFault, hnext]
  have hvalue : s.readValue ch k = v := by rw [readValue_of_volatile hk, hnext]
  rw [regRead_ok hfault, hvalue]
  refine ⟨rfl, ?_, ?_⟩
  · simp [h]
  · simp [Issues]

end Sys2Proof.Machine
end

section
/-! PROOF. What a commit does, said once: `commitOf` changes the store only, reads the store and the parameters only, and
changes of the store what `PwmChange`, `TachChange` and `CoolChange` list. `exec_store` carries this over to a command, so
that the rules about single fields follow by cases on these three lists. -/

namespace Sys2Proof.Machine

/-! ### The commits that look at the store or at an operand code -/

theorem commitOf_enableTach_illegal {edge : BitVec 2} (h : edgeModeOfCode edge = none) (ch : Channel)
    (debounce : BitVec 2) (ppr : Byte) (exp : BitVec 4) (inv : Bool) (threshold : Word) (s : State) :
    commitOf (.enableTach ch edge debounce ppr exp inv threshold) s = s := by
  simp [commitOf, h]

theorem commitOf_enableTach_legal {edge : BitVec 2} {mode : EdgeMode} (h : edgeModeOfCode edge = some mode)
    (ch : Channel) (debounce : BitVec 2) (ppr : Byte) (exp : BitVec 4) (inv : Bool) (threshold : Word) (s : State) :
    commitOf (.enableTach ch edge debounce ppr exp inv threshold) s =
      s.setTach ch { edgeMode := mode, debounceLevel := debounce, pulsesPerRevolution := ppr, dividerExponent := exp,
                     inverseLimitComparison := inv, threshold := threshold, divider := channelDivider exp } := by
  simp [commitOf, h]

theorem commitOf_setCurState_absent {s : State} {ch : Channel} (h : s.cool[ch] = none) (state : Word) :
    commitOf (.setCurState ch state) s = s := by
  simp only [commitOf, h]

theorem commitOf_setCurState_present {s : State} {ch : Channel} {d : CoolingDevice} (h : s.cool[ch] = some d)
    (state : Word) :
    commitOf (.setCurState ch state) s =
      (s.commitProgram ch (d.levels[state.toNat]?.getD 0#8)).setCool ch
        (some { d with currentState := state.toNat }) := by
  simp only [commitOf, h]

theorem commitOf_cfgCoolLevel_absent {s : State} {ch : Channel} (h : s.cool[ch] = none) (level : Byte) :
    commitOf (.cfgCoolLevel ch level) s =
      s.setCool ch (some { pwmChannel := ch, levels := [level], currentState := 0 }) := by
  simp only [commitOf, h]

theorem commitOf_cfgCoolLevel_present {s : State} {ch : Channel} {d : CoolingDevice} (h : s.cool[ch] = some d)
    (level : Byte) :
    commitOf (.cfgCoolLevel ch level) s = s.setCool ch (some { d with levels := d.levels ++ [level] }) := by
  simp only [commitOf, h]

/-! ### A commit and the rest of the state -/

/-- A commit writes the three arrays of the store and nothing else. -/
theorem commitOf_eq (i : Instr) (s : State) :
    commitOf i s =
      { s with pwm := (commitOf i s).pwm, tach := (commitOf i s).tach, cool := (commitOf i s).cool } := by
  cases i with
  | enableTach ch edge debounce ppr exp inv threshold =>
    cases he : edgeModeOfCode edge with
    | none => rw [commitOf_enableTach_illegal he]
    | some mode => rw [commitOf_enableTach_legal he]; rfl
  | setCurState ch state =>
    cases hd : s.cool[ch] with
    | none => rw [commitOf_setCurState_absent hd]
    | some d => rw [commitOf_setCurState_present hd]; rfl
  | cfgCoolLevel ch level =>
    cases hd : s.cool[ch] with
    | none => rw [commitOf_cfgCoolLevel_absent hd]; rfl
    | some d => rw [commitOf_cfgCoolLevel_present hd]; rfl
  | _ => rfl

@[simp] theorem commitOf_params (i : Instr) (s : State) : (commitOf i s).params = s.params := by
  rw [commitOf_eq]
@[simp] theorem commitOf_regs (i : Instr) (s : State) : (commitOf i s).regs = s.regs := by
  rw [commitOf_eq]
@[simp] theorem commitOf_responses (i : Instr) (s : State) : (commitOf i s).responses = s.responses := by
  rw [commitOf_eq]
@[simp] theorem commitOf_trace (i : Instr) (s : State) : (commitOf i s).trace = s.trace := by
  rw [commitOf_eq]

/-! ### Two states with the same store -/

/-- The two states have the same parameters and the same store. -/
def StoreAlike (s u : State) : Prop := u.params = s.params ∧ KeepsStore s u

theorem OnlyAccesses.storeAlike {s u : State} {l : List PortAccess} (h : OnlyAccesses s u l) : StoreAlike s u :=
  ⟨h.2.1.1, h.1⟩

/-- A commit reads nothing but the store and the parameters. -/
theorem StoreAlike.afterCommit {s u : State} (h : StoreAlike s u) (i : Instr) :
    StoreAlike (commitOf i s) (commitOf i u) := by
  obtain ⟨hparams, hpwm, htach, hcool⟩ := h
  refine ⟨by simp [hparams], ?_⟩
  cases i with
  | enableTach ch edge debounce ppr exp inv threshold =>
    cases he : edgeModeOfCode edge with
    | none => simp [commitOf_enableTach_illegal he, KeepsStore, hpwm, htach, hcool]
    | some mode => simp [commitOf_enableTach_legal he, KeepsStore, hpwm, htach, hcool]
  | setCurState ch state =>
    cases hd : s.cool[ch] with
    | none => simp [commitOf_setCurState_absent, hd, KeepsStore, hpwm, htach, hcool]
    | some d => simp [commitOf_setCurState_present (d := d), hd, KeepsStore, hparams, hpwm, htach, hcool]
  | cfgCoolLevel ch level =>
    cases hd : s.cool[ch] with
    | none => simp [commitOf_cfgCoolLevel_absent, hd, KeepsStore, hpwm, htach, hcool]
    | some d => simp [commitOf_cfgCoolLevel_present (d := d), hd, KeepsStore, hpwm, htach, hcool]
  | _ => simp [commitOf, KeepsStore, hparams, hpwm, htach, hcool]

/-- The range and device checks read nothing but the store. -/
theorem StoreAlike.admits_eq {s u : State} (h : StoreAlike s u) (i : Instr) : admits i u = admits i s := by
  obtain ⟨-, -, -, hcool⟩ := h
  cases i <;> simp [admits, hcool]

/-- A command leaves the store alone, or it was admitted and the store is as its commit makes it. -/
theorem exec_store {i : Instr} {s t : State} (h : exec i s = .next t) :
    StoreAlike s t ∨ admits i s = true ∧ StoreAlike (commitOf i s) t := by
  cases exec_cases h with
  | turnedAway st hst ha => exact .inl ⟨rfl, rfl, rfl, rfl⟩
  | busFault u l ha hacc => exact .inl hacc.1.storeAlike
  | completed u l aux val ha hacc => exact .inr ⟨ha, hacc.1.storeAlike.afterCommit i⟩

/-! ### The record, tachometer record and cooling slot of one channel -/

/-- What a command can make of `cfg.pwm[c]`, with the commands that do (rules R74 to R78, R108, R115, R116). -/
inductive PwmChange (s : State) (c : Channel) (r : PwmChannelConfig) : Instr → Prop where
  | kept (i : Instr) (hr : r = s.pwm[c]) : PwmChange s c r i
  | retargeted (freq : Word)
      (hr : r = ({ s.pwm[c] with targetFrequencyHz := freq } : PwmChannelConfig).cache
        (resolve s.params.inputClockHz freq)) : PwmChange s c r (.enablePwm c freq)
  | dutySet (value : Word) (hr : r = s.pwm[c].programmed s.params.inputClockHz (value.setWidth 8)) :
      PwmChange s c r (.setDuty c value)
  | levelSet (state : Word) (level : Byte) (hr : r = s.pwm[c].programmed s.params.inputClockHz level) :
      PwmChange s c r (.setCurState c state)
  | fastDutySet (value : Word) (hr : r = { s.pwm[c] with dutyFallingPoint := value.setWidth 8 }) :
      PwmChange s c r (.setDutyFast c value)
  | failsafeSet (enabled : Bool) (edge : EdgeSelection) (point : Byte)
      (hr : r = { s.pwm[c] with
        watchdogFailsafe := { enabled := enabled, edgeSelection := edge, failsafePoint := point } }) :
      PwmChange s c r (.cfgFailsafe c enabled edge point)
  | flagsSet (sync inverted : Bool)
      (hr : r = { s.pwm[c] with dutySyncDisabled := sync, outputInverted := inverted }) :
      PwmChange s c r (.cfgFlags c sync inverted)

/-- What a command can make of `cfg.tach[c]` (rule R92). -/
inductive TachChange (s : State) (c : Channel) (r : TachChannelConfig) : Instr → Prop where
  | kept (i : Instr) (hr : r = s.tach[c]) : TachChange s c r i
  | enabled (edge debounce : BitVec 2) (ppr : Byte) (exp : BitVec 4) (inv : Bool) (threshold : Word) (mode : EdgeMode)
      (hrange : tachOperandsInRange ppr threshold = true)
      (hr : r = { edgeMode := mode, debounceLevel := debounce, pulsesPerRevolution := ppr, dividerExponent := exp,
                  inverseLimitComparison := inv, threshold := threshold, divider := channelDivider exp }) :
      TachChange s c r (.enableTach c edge debounce ppr exp inv threshold)

/-- What a command can make of `cfg.cool[c]` (rules R108, R117, R118). -/
inductive CoolChange (s : State) (c : Channel) (slot : Option CoolingDevice) : Instr → Prop where
  | kept (i : Instr) (hslot : slot = s.cool[c]) : CoolChange s c slot i
  | stateSet (state : Word) (d : CoolingDevice) (hd : s.cool[c] = some d) (hstate : state.toNat < d.levels.length)
      (hslot : slot = some { d with currentState := state.toNat }) : CoolChange s c slot (.setCurState c state)
  | cleared (hslot : slot = none) : CoolChange s c slot (.cfgCoolClear c)
  | created (level : Byte) (hslot : slot = some { pwmChannel := c, levels := [level], currentState := 0 }) :
      CoolChange s c slot (.cfgCoolLevel c level)
  | extended (level : Byte) (d : CoolingDevice) (hd : s.cool[c] = some d) (hroom : d.levels.length ≠ 256)
      (hslot : slot = some { d with levels := d.levels ++ [level] }) : CoolChange s c slot (.cfgCoolLevel c level)

/-- A write to one entry of an array of the store, seen from an entry: it is the one written, or as before. -/
theorem getElem_set_cases {α : Type} (v : Vector α 16) (ch c : Channel) (x : α) :
    c = ch ∧ (v.set ch x)[c] = x ∨ (v.set ch x)[c] = v[c] := by
  by_cases hc : c = ch
  · subst hc
    exact .inl ⟨rfl, by simp⟩
  · have hne : (ch : Nat) ≠ c := fun e => hc (Fin.ext e.symm)
    exact .inr (by simp [hne])

/-- A write to one record, seen from any record: a change of that record, or none. -/
theorem PwmChange.ofSet {s : State} {ch : Channel} {r : PwmChannelConfig} {i : Instr} (h : PwmChange s ch r i)
    (c : Channel) : PwmChange s c (s.pwm.set ch r)[c] i := by
  rcases getElem_set_cases s.pwm ch c r with ⟨rfl, hr⟩ | hr
  · rwa [hr]
  · exact .kept i hr

theorem TachChange.ofSet {s : State} {ch : Channel} {r : TachChannelConfig} {i : Instr} (h : TachChange s ch r i)
    (c : Channel) : TachChange s c (s.tach.set ch r)[c] i := by
  rcases getElem_set_cases s.tach ch c r with ⟨rfl, hr⟩ | hr
  · rwa [hr]
  · exact .kept i hr

theorem CoolChange.ofSet {s : State} {ch : Channel} {slot : Option CoolingDevice} {i : Instr}
    (h : CoolChange s ch slot i) (c : Channel) : CoolChange s c (s.cool.set ch slot)[c] i := by
  rcases getElem_set_cases s.cool ch c slot with ⟨rfl, hslot⟩ | hslot
  · rwa [hslot]
  · exact .kept i hslot

theorem commitOf_pwmChange (i : Instr) (s : State) (c : Channel) : PwmChange s c (commitOf i s).pwm[c] i := by
  cases i with
  | enablePwm ch freq =>
    exact .ofSet (.retargeted freq rfl) c
  | setDuty ch value =>
    exact .ofSet (.dutySet value rfl) c
  | setDutyFast ch value =>
    exact .ofSet (.fastDutySet value rfl) c
  | setCurState ch state =>
    cases hd : s.cool[ch] with
    | none => exact .kept _ (by rw [commitOf_setCurState_absent hd])
    | some d =>
      rw [commitOf_setCurState_present hd]
      exact .ofSet (.levelSet state _ rfl) c
  | cfgFailsafe ch enabled edge point =>
    exact .ofSet (.failsafeSet enabled edge point rfl) c
  | cfgFlags ch sync inverted =>
    exact .ofSet (.flagsSet sync inverted rfl) c
  | enableTach ch edge debounce ppr exp inv threshold =>
    cases he : edgeModeOfCode edge with
    | none => exact .kept _ (by rw [commitOf_enableTach_illegal he])
    | some mode => exact .kept _ (by rw [commitOf_enableTach_legal he, State.setTach_pwm])
  | cfgCoolLevel ch level =>
    cases hd : s.cool[ch] with
    | none => exact .kept _ (by rw [commitOf_cfgCoolLevel_absent hd, State.setCool_pwm])
    | some d => exact .kept _ (by rw [commitOf_cfgCoolLevel_present hd, State.setCool_pwm])
  | _ => exact .kept _ rfl

theorem commitOf_tachChange {i : Instr} {s : State} (ha : admits i s = true) (c : Channel) :
    TachChange s c (commitOf i s).tach[c] i := by
  cases i with
  | enableTach ch edge debounce ppr exp inv threshold =>
    obtain ⟨-, hrange⟩ : (edgeModeOfCode edge).isSome = true ∧ tachOperandsInRange ppr threshold = true := by
      simpa [admits] using ha
    cases he : edgeModeOfCode edge with
    | none => exact .kept _ (by rw [commitOf_enableTach_illegal he])
    | some mode =>
      rw [commitOf_enableTach_legal he]
      exact .ofSet (.enabled edge debounce ppr exp inv threshold mode hrange rfl) c
  | setCurState ch state =>
    cases hd : s.cool[ch] with
    | none => exact .kept _ (by rw [commitOf_setCurState_absent hd])
    | some d => exact .kept _ (by rw [commitOf_setCurState_present hd, State.setCool_tach, State.commitProgram_tach])
  | cfgCoolLevel ch level =>
    cases hd : s.cool[ch] with
    | none => exact .kept _ (by rw [commitOf_cfgCoolLevel_absent hd, State.setCool_tach])
    | some d => exact .kept _ (by rw [commitOf_cfgCoolLevel_present hd, State.setCool_tach])
  | _ => exact .kept _ rfl

theorem commitOf_coolChange {i : Instr} {s : State} (ha : admits i s = true) (c : Channel) :
    CoolChange s c (commitOf i s).cool[c] i := by
  cases i with
  | enableTach ch edge debounce ppr exp inv threshold =>
    cases he : edgeModeOfCode edge with
    | none => exact .kept _ (by rw [commitOf_enableTach_illegal he])
    | some mode => exact .kept _ (by rw [commitOf_enableTach_legal he, State.setTach_cool])
  | setCurState ch state =>
    cases hd : s.cool[ch] with
    | none => exact .kept _ (by rw [commitOf_setCurState_absent hd])
    | some d =>
      have hstate : state.toNat < d.levels.length := by simpa [admits, hd] using ha
      rw [commitOf_setCurState_present hd]
      exact .ofSet (.stateSet state d hd hstate rfl) c
  | cfgCoolClear ch =>
    exact .ofSet (.cleared rfl) c
  | cfgCoolLevel ch level =>
    cases hd : s.cool[ch] with
    | none =>
      rw [commitOf_cfgCoolLevel_absent hd]
      exact .ofSet (.created level rfl) c
    | some d =>
      have hroom : d.levels.length ≠ 256 := by simpa [admits, hd, Config.maxLevels] using ha
      rw [commitOf_cfgCoolLevel_present hd]
      exact .ofSet (.extended level d hd hroom rfl) c
  | _ => exact .kept _ rfl

theorem exec_pwmChange {i : Instr} {s t : State} (h : exec i s = .next t) (c : Channel) :
    PwmChange s c t.pwm[c] i := by
  rcases exec_store h with ⟨-, hpwm, -⟩ | ⟨-, -, hpwm, -⟩
  · exact .kept i (by rw [hpwm])
  · rw [hpwm]
    exact commitOf_pwmChange i s c

theorem exec_tachChange {i : Instr} {s t : State} (h : exec i s = .next t) (c : Channel) :
    TachChange s c t.tach[c] i := by
  rcases exec_store h with ⟨-, -, htach, -⟩ | ⟨ha, -, -, htach, -⟩
  · exact .kept i (by rw [htach])
  · rw [htach]
    exact commitOf_tachChange ha c

theorem exec_coolChange {i : Instr} {s t : State} (h : exec i s = .next t) (c : Channel) :
    CoolChange s c t.cool[c] i := by
  rcases exec_store h with ⟨-, -, -, hcool⟩ | ⟨ha, -, -, -, hcool⟩
  · exact .kept i (by rw [hcool])
  · rw [hcool]
    exact commitOf_coolChange ha c

theorem exec_params {i : Instr} {s t : State} (h : exec i s = .next t) : t.params = s.params := by
  rcases exec_store h with ⟨hparams, -⟩ | ⟨-, hparams, -⟩
  · exact hparams
  · rw [hparams, commitOf_params]

theorem exec_regs_of_ne {i : Instr} {s t : State} (h : exec i s = .next t) {c : Channel} (hc : channelOf i ≠ some c) :
    t.regs[c] = s.regs[c] := by
  cases exec_cases h with
  | turnedAway st hst ha => rfl
  | busFault u l ha hacc =>
    obtain ⟨-, -, -, -, -, hregs⟩ := hacc
    exact hregs c hc
  | completed u l aux val ha hacc =>
    obtain ⟨-, -, -, -, -, hregs⟩ := hacc
    simpa using hregs c hc

/-! ### Other channels and other fields -/

theorem PwmChange.eq_of_ne {i : Instr} {s : State} {c : Channel} {r : PwmChannelConfig} (h : PwmChange s c r i)
    (hc : channelOf i ≠ some c) : r = s.pwm[c] := by
  cases h with
  | kept _ hr => exact hr
  | _ => exact absurd rfl hc

theorem TachChange.eq_of_ne {i : Instr} {s : State} {c : Channel} {r : TachChannelConfig} (h : TachChange s c r i)
    (hc : channelOf i ≠ some c) : r = s.tach[c] := by
  cases h with
  | kept _ hr => exact hr
  | _ => exact absurd rfl hc

theorem CoolChange.eq_of_ne {i : Instr} {s : State} {c : Channel} {slot : Option CoolingDevice}
    (h : CoolChange s c slot i) (hc : channelOf i ≠ some c) : slot = s.cool[c] := by
  cases h with
  | kept _ hslot => exact hslot
  | _ => exact absurd rfl hc

/-- Settles O19: every change of the store names the command's own channel, and so does every access. -/
theorem commandTouchesOnlyItsChannel : Obligations.CommandTouchesOnlyItsChannel := fun _ _ _ c h hc =>
  ⟨(exec_pwmChange h c).eq_of_ne hc, (exec_tachChange h c).eq_of_ne hc, (exec_coolChange h c).eq_of_ne hc,
    exec_regs_of_ne h hc⟩

@[simp] theorem PwmChannelConfig.programmed_dutyFallingPoint (r : PwmChannelConfig) (clk : Word) (d : Byte) :
    (r.programmed clk d).dutyFallingPoint = d := by
  unfold PwmChannelConfig.programmed
  split
  · next hd => exact hd.symm
  · rfl

@[simp] theorem PwmChannelConfig.programmed_targetFrequencyHz (r : PwmChannelConfig) (clk : Word) (d : Byte) :
    (r.programmed clk d).targetFrequencyHz = r.targetFrequencyHz := by
  unfold PwmChannelConfig.programmed
  split <;> rfl

@[simp] theorem PwmChannelConfig.programmed_watchdogFailsafe (r : PwmChannelConfig) (clk : Word) (d : Byte) :
    (r.programmed clk d).watchdogFailsafe = r.watchdogFailsafe := by
  unfold PwmChannelConfig.programmed
  split <;> rfl

@[simp] theorem PwmChannelConfig.programmed_dutySyncDisabled (r : PwmChannelConfig) (clk : Word) (d : Byte) :
    (r.programmed clk d).dutySyncDisabled = r.dutySyncDisabled := by
  unfold PwmChannelConfig.programmed
  split <;> rfl

@[simp] theorem PwmChannelConfig.programmed_outputInverted (r : PwmChannelConfig) (clk : Word) (d : Byte) :
    (r.programmed clk d).outputInverted = r.outputInverted := by
  unfold PwmChannelConfig.programmed
  split <;> rfl

/-- The writers of each field of a PWM record (rule R8). -/
theorem PwmChange.writers {i : Instr} {s : State} {c : Channel} {r : PwmChannelConfig} (h : PwmChange s c r i) :
    (r.targetFrequencyHz ≠ s.pwm[c].targetFrequencyHz → i.opcode = .enablePwm) ∧
    (r.dutyFallingPoint ≠ s.pwm[c].dutyFallingPoint →
      i.opcode = .setDuty ∨ i.opcode = .setDutyFast ∨ i.opcode = .setCurState) ∧
    (r.coarse ≠ s.pwm[c].coarse ∨ r.fine ≠ s.pwm[c].fine ∨ r.achievedFrequencyHz ≠ s.pwm[c].achievedFrequencyHz →
      i.opcode = .setDuty ∨ i.opcode = .enablePwm ∨ i.opcode = .setCurState) ∧
    (r.watchdogFailsafe ≠ s.pwm[c].watchdogFailsafe → i.opcode = .cfgFailsafe) ∧
    (r.dutySyncDisabled ≠ s.pwm[c].dutySyncDisabled ∨ r.outputInverted ≠ s.pwm[c].outputInverted →
      i.opcode = .cfgFlags) := by
  cases h with
  | kept _ hr => simp [hr]
  | retargeted freq hr => simp [hr, Instr.opcode, PwmChannelConfig.cache]
  | dutySet value hr => simp [hr, Instr.opcode]
  | levelSet state level hr => simp [hr, Instr.opcode]
  | fastDutySet value hr => simp [hr, Instr.opcode]
  | failsafeSet enabled edge point hr => simp [hr, Instr.opcode]
  | flagsSet sync inverted hr => simp [hr, Instr.opcode]

theorem TachChange.writers {i : Instr} {s : State} {c : Channel} {r : TachChannelConfig} (h : TachChange s c r i)
    (hne : r ≠ s.tach[c]) : i.opcode = .enableTach := by
  cases h with
  | kept _ hr => exact absurd hr hne
  | enabled => rfl

theorem CoolChange.writers {i : Instr} {s : State} {c : Channel} {slot : Option CoolingDevice}
    (h : CoolChange s c slot i) (hne : slot ≠ s.cool[c]) :
    i.opcode = .setCurState ∨ i.opcode = .cfgCoolClear ∨ i.opcode = .cfgCoolLevel := by
  cases h with
  | kept _ hslot => exact absurd hslot hne
  | stateSet => exact .inl rfl
  | cleared => exact .inr (.inl rfl)
  | created => exact .inr (.inr rfl)
  | extended => exact .inr (.inr rfl)

/-- Settles O20: the writers of the fields, read off the changes a command can make. -/
theorem storeFieldsAreWrittenOnlyByTheirCommands : Obligations.StoreFieldsAreWrittenOnlyByTheirCommands := by
  intro i s t c h
  obtain ⟨htarget, hduty, hcache, hfailsafe, hflags⟩ := (exec_pwmChange h c).writers
  exact ⟨htarget, hduty, hcache, hfailsafe, hflags, (exec_tachChange h c).writers, (exec_coolChange h c).writers⟩

end Sys2Proof.Machine
end

section
/-! PROOF. The machine's invariant: every change of a tachometer record or a cooling slot keeps it legal, every access and
every response of a command is legal, and so every step keeps `State.Inv`. -/

namespace Sys2Proof.Machine

/-! ### The store -/

theorem TachChange.legal {i : Instr} {s : State} {c : Channel} {r : TachChannelConfig} (h : TachChange s c r i)
    (hs : TachLegal s.tach[c]) : TachLegal r := by
  cases h with
  | kept _ hr => rwa [hr]
  | enabled edge debounce ppr exp inv threshold mode hrange hr =>
    obtain ⟨hppr, hthreshold⟩ : ppr ≠ 0#8 ∧ threshold.toNat ≤ 0xFFFFF := by
      simpa [tachOperandsInRange] using hrange
    have hpulses : 1 ≤ ppr.toNat := by
      rw [Nat.one_le_iff_ne_zero]
      exact fun h0 => hppr (BitVec.eq_of_toNat_eq h0)
    rw [hr]
    exact ⟨hpulses, channelDivider_toNat exp, hthreshold⟩

theorem CoolChange.legal {i : Instr} {s : State} {c : Channel} {slot : Option CoolingDevice}
    (h : CoolChange s c slot i) (hs : CoolLegal c s.cool[c]) : CoolLegal c slot := by
  cases h with
  | kept _ hslot => rwa [hslot]
  | stateSet state d hd hstate hslot =>
    obtain ⟨hch, hpos, hmax, -⟩ := hs d hd
    rintro d' hd'
    cases hslot.symm.trans hd'
    exact ⟨hch, hpos, hmax, hstate⟩
  | cleared hslot =>
    rw [hslot]
    exact coolLegal_none c
  | created level hslot =>
    rintro d' hd'
    cases hslot.symm.trans hd'
    exact ⟨rfl, by simp, by simp, by simp⟩
  | extended level d hd hroom hslot =>
    obtain ⟨hch, hpos, hmax, hcur⟩ := hs d hd
    rintro d' hd'
    cases hslot.symm.trans hd'
    refine ⟨hch, ?_, ?_, ?_⟩ <;> simp only [List.length_append, List.length_singleton] <;> omega

theorem exec_storeLegal {i : Instr} {s t : State} (h : exec i s = .next t) (hs : StoreLegal s) : StoreLegal t := by
  obtain ⟨hparams, htach, hcool⟩ := hs
  refine ⟨?_, fun c => (exec_tachChange h c).legal (htach c), fun c => (exec_coolChange h c).legal (hcool c)⟩
  rwa [exec_params h]

/-! ### What is observable -/

theorem responseLegal_ok (aux : BitVec 28) (val : Word) : ResponseLegal (responseWord .ok aux val) := by
  refine ⟨?_, fun hne => ?_⟩
  · rw [statusField_responseWord]
    decide
  · rw [statusField_responseWord] at hne
    exact absurd rfl hne

theorem responseLegal_raised (st : Status) : ResponseLegal (responseWord st 0#28 0#32) := by
  refine ⟨?_, fun _ => ⟨auxField_responseWord st 0#28 0#32, valField_responseWord st 0#28 0#32⟩⟩
  rw [statusField_responseWord]
  cases st <;> decide

/-- A command appends legal accesses to the trace and one legal response. -/
theorem exec_observed {i : Instr} {s t : State} (h : exec i s = .next t) :
    ∃ l r, Issues s t l ∧ (∀ a ∈ l, AccessLegal a) ∧ Returns s t r ∧ ResponseLegal r := by
  cases exec_cases h with
  | turnedAway st hst ha => exact ⟨[], _, by simp [Issues], by simp, rfl, responseLegal_raised st⟩
  | busFault u l ha hacc =>
    obtain ⟨⟨-, -, hresp, htrace⟩, -, hlegal, -⟩ := hacc
    exact ⟨l, _, htrace, hlegal, by simp [Returns, hresp], responseLegal_raised .busFault⟩
  | completed u l aux val ha hacc =>
    obtain ⟨⟨-, -, hresp, htrace⟩, -, hlegal, -⟩ := hacc
    refine ⟨l, responseWord .ok aux val, ?_, hlegal, ?_, responseLegal_ok aux val⟩
    · simpa [Issues] using htrace
    · simp [Returns, hresp]

theorem inv_of_appended {s t : State} {l : List PortAccess} {r : List ResponseWord} (hs : s.Inv) (hstore : StoreLegal t)
    (htrace : t.trace = s.trace ++ l) (hl : ∀ a ∈ l, AccessLegal a) (hresp : t.responses = s.responses ++ r)
    (hr : ∀ x ∈ r, ResponseLegal x) : t.Inv := by
  obtain ⟨-, hstrace, hsresp⟩ := hs
  refine ⟨hstore, ?_, ?_⟩
  · rw [htrace]
    exact List.forall_mem_append.2 ⟨hstrace, hl⟩
  · rw [hresp]
    exact List.forall_mem_append.2 ⟨hsresp, hr⟩

theorem exec_inv {i : Instr} {s t : State} (h : exec i s = .next t) (hs : s.Inv) : t.Inv := by
  obtain ⟨l, r, htrace, hl, hresp, hr⟩ := exec_observed h
  exact inv_of_appended hs (exec_storeLegal h hs.1) htrace hl hresp (by simpa using hr)

/-! ### The other inputs -/

theorem dropInput_inv {s : State} (hs : s.Inv) : s.dropInput.Inv := hs

theorem rejectWord_inv {s : State} (hs : s.Inv) : s.rejectWord.Inv :=
  inv_of_appended (l := []) hs hs.1 (by simp) (by simp) (State.rejectWord_responses s)
    (by simpa using responseLegal_raised .illegalCommand)

theorem blockReset_inv {s : State} (hs : s.Inv) : s.blockReset.Inv := by
  obtain ⟨⟨hparams, -, -⟩, htrace, hresp⟩ := hs
  exact ⟨storeLegal_of_defaults hparams (State.blockReset_tach s) (State.blockReset_cool s), htrace, hresp⟩

/-- Settles O14: by what a step can be; a command keeps the invariant by `exec_inv`. -/
theorem stepKeepsTheInvariant : Obligations.StepKeepsTheInvariant := by
  intro s t hs h
  rcases step_cases h with rfl | rfl | rfl | ⟨i, hi⟩
  · exact hs
  · exact blockReset_inv (dropInput_inv hs)
  · exact rejectWord_inv (dropInput_inv hs)
  · exact exec_inv hi (dropInput_inv hs)

end Sys2Proof.Machine
end

section
/-! PROOF. The run of a command, said once for all fourteen: `exec_run` names its port accesses (`accessesOf`), the status it
is turned away with (`refusalOf`) and the response it completes with (`answerOf`), where `exec_outcome` says only that there
are some. Without faults it shows that the engine reaches neither the store nor a response. -/

namespace Sys2Proof.Machine

/-! ### The parts of a run -/

/-- The level the table of a slot has for a state; any byte where it has none, for a command that is turned away then. -/
def levelAt (s : State) (ch : Channel) (state : Word) : Byte :=
  (s.cool[ch].bind fun d => d.levels[state.toNat]?).getD 0#8

/-- The port accesses of a command that is admitted. -/
def accessesOf : Instr → State → AccessRun
  | .enablePwm ch freq, s =>
      programAccesses ch { s.pwm[ch] with targetFrequencyHz := freq } s.pwm[ch].dutyFallingPoint s
  | .setDuty ch value, s => programAccesses ch s.pwm[ch] (value.setWidth 8) s
  | .setDutyFast ch value, s => fastAccesses ch s.pwm[ch].dutyFallingPoint (value.setWidth 8) s
  | .enableTach ch edge debounce ppr exp inv threshold, s =>
      regWrite ch .tctrl (tachCtrlWord
        { edgeMode := (edgeModeOfCode edge).getD .both, debounceLevel := debounce, pulsesPerRevolution := ppr,
          dividerExponent := exp, inverseLimitComparison := inv, threshold := threshold,
          divider := channelDivider exp }) s
  | .getRpm ch, s => { completed := (poll ch s).value.isSome, state := (poll ch s).state }
  | .setCurState ch state, s => programAccesses ch s.pwm[ch] (levelAt s ch state) s
  | _, s => { completed := true, state := s }

/-- The status of a command that is turned away (rules R124, R127). -/
def refusalOf : Instr → State → Status
  | .getMaxState _, _ => .noDevice
  | .getCurState _, _ => .noDevice
  | .setCurState ch _, s => if s.cool[ch].isNone then .noDevice else .outOfRange
  | _, _ => .outOfRange

/-- The response of a command that completes. -/
def answerOf : Instr → State → ResponseWord
  | .resolve target, s =>
      let q := resolve s.params.inputClockHz target
      responseWord .ok (resolveAux q.coarse q.fine q.exhausted) q.achieved
  | .getDuty ch, s => responseWord .ok 0#28 (s.pwm[ch].dutyFallingPoint.setWidth 32)
  | .getRpm ch, s =>
      match (poll ch s).value with
      | none => responseWord .ok 0#28 0#32
      | some (v, stale) => responseWord .ok (staleAux stale)
          (rpm s.params.inputClockHz (rawField v) s.tach[ch].divider s.tach[ch].pulsesPerRevolution)
  | .getMaxState ch, s => responseWord .ok 0#28 (BitVec.ofNat 32 ((s.cool[ch].map CoolingDevice.maxState).getD 0))
  | .getCurState ch, s => responseWord .ok 0#28 (BitVec.ofNat 32 ((s.cool[ch].map CoolingDevice.currentState).getD 0))
  | _, _ => responseWord .ok 0#28 0#32

/-- The three ends of a run. -/
inductive CommandRun (i : Instr) (s t : State) : Prop where
  | turnedAway (ha : admits i s = false) (ht : t = s.raise (refusalOf i s))
  | busFault (ha : admits i s = true) (hc : (accessesOf i s).completed = false)
      (ht : t = (accessesOf i s).state.raise .busFault)
  | completed (ha : admits i s = true) (hc : (accessesOf i s).completed = true)
      (ht : t = (commitOf i (accessesOf i s).state).respond (answerOf i s))

/-! ### What the accesses can do -/

theorem commandAccesses_of_spec {i : Instr} {s : State} {ch : Channel} {r : AccessRun} (hch : channelOf i = some ch)
    (h : AccessRun.Spec ch 4 s r) : ∃ l, CommandAccesses i s r.state r.completed l := by
  obtain ⟨l, haccesses, hlength, hlegal, hfaults, hcompleted, hregs⟩ := h
  exact ⟨l, haccesses, hlength, hlegal, hfaults, hcompleted, fun c hc => hregs c fun e => hc (by rw [hch, e])⟩

theorem commandAccesses_none (i : Instr) (s : State) : ∃ l, CommandAccesses i s s true l :=
  ⟨[], by simp [OnlyAccesses, KeepsStore, KeepsSurroundings, Issues], by simp, by simp, by simp [FaultsOnlyLast],
    by simp, by simp⟩

theorem accessesOf_spec (i : Instr) (s : State) :
    ∃ l, CommandAccesses i s (accessesOf i s).state (accessesOf i s).completed l := by
  cases i with
  | enablePwm ch freq => exact commandAccesses_of_spec rfl (programAccesses_spec ch _ _ s)
  | setDuty ch value => exact commandAccesses_of_spec rfl (programAccesses_spec ch _ _ s)
  | setDutyFast ch value => exact commandAccesses_of_spec rfl (fastAccesses_spec ch _ _ s)
  | getRpm ch => exact commandAccesses_of_spec rfl ((poll_spec ch s).mono (by decide))
  | enableTach ch edge debounce ppr exp inv threshold =>
    exact commandAccesses_of_spec rfl ((regWrite_spec ch .tctrl (by decide) _ s).mono (by decide))
  | setCurState ch state => exact commandAccesses_of_spec rfl (programAccesses_spec ch _ _ s)
  | _ => exact commandAccesses_none _ s

theorem levelAt_of_present {s : State} {ch : Channel} {d : CoolingDevice} (h : s.cool[ch] = some d) (state : Word) :
    levelAt s ch state = d.levels[state.toNat]?.getD 0#8 := by
  simp only [levelAt, h, Option.bind_some]

theorem accessesOf_storeAlike (i : Instr) (s : State) : StoreAlike s (accessesOf i s).state := by
  obtain ⟨l, haccesses, -⟩ := accessesOf_spec i s
  exact haccesses.storeAlike

theorem accessesOf_responses (i : Instr) (s : State) : (accessesOf i s).state.responses = s.responses := by
  obtain ⟨l, ⟨-, -, hresponses, -⟩, -⟩ := accessesOf_spec i s
  exact hresponses

theorem accessesOf_completed_of_portFaults_false {s : State} (h : s.params.portFaults = false) (i : Instr) :
    (accessesOf i s).completed = true := by
  obtain ⟨l, -, -, -, -, hcompleted, -⟩ := accessesOf_spec i s
  exact hcompleted h

/-! ### Every command is such a run -/

/-- A command that answers 0 ends its accesses by `AccessRun.finish`. -/
theorem CommandRun.ofFinish {i : Instr} {s : State} {r : AccessRun} (ha : admits i s = true)
    (hanswer : answerOf i s = responseWord .ok 0#28 0#32) (hr : r = accessesOf i s) (commit : State → State)
    (hcommit : ∀ u, StoreAlike s u → commit u = commitOf i u) : CommandRun i s (r.finish commit) := by
  subst hr
  cases hc : (accessesOf i s).completed with
  | false => exact .busFault ha hc (AccessRun.finish_faulted hc commit)
  | true =>
    refine .completed ha hc ?_
    rw [AccessRun.finish_completed hc, hcommit _ (accessesOf_storeAlike i s), hanswer]
    rfl

theorem exec_run (i : Instr) (s : State) : ∃ t, exec i s = .next t ∧ CommandRun i s t := by
  cases i with
  | resolve target => exact ⟨_, rfl, .completed rfl rfl rfl⟩
  | getDuty ch => exact ⟨_, rfl, .completed rfl rfl rfl⟩
  | cfgFailsafe ch enabled edge point => exact ⟨_, rfl, .completed rfl rfl rfl⟩
  | cfgFlags ch sync inverted => exact ⟨_, rfl, .completed rfl rfl rfl⟩
  | cfgCoolClear ch => exact ⟨_, rfl, .completed rfl rfl rfl⟩
  | enablePwm ch freq =>
    refine ⟨_, rfl, .ofFinish (i := .enablePwm ch freq) rfl rfl rfl _ fun u hu => ?_⟩
    obtain ⟨hparams, hpwm, -⟩ := hu
    simp only [commitOf, hparams, hpwm]
  | setDuty ch value =>
    refine ⟨_, rfl, ?_⟩
    cases hd : dutyInRange value with
    | false => exact .turnedAway hd rfl
    | true => exact .ofFinish (i := .setDuty ch value) hd rfl rfl _ fun u hu => rfl
  | setDutyFast ch value =>
    refine ⟨_, rfl, ?_⟩
    cases hd : dutyInRange value with
    | false => exact .turnedAway hd rfl
    | true => exact .ofFinish (i := .setDutyFast ch value) hd rfl rfl _ fun u hu => rfl
  | enableTach ch edge debounce ppr exp inv threshold =>
    refine ⟨_, rfl, ?_⟩
    cases he : edgeModeOfCode edge with
    | none => exact .turnedAway (by simp [admits, he]) rfl
    | some mode =>
      cases hr : tachOperandsInRange ppr threshold with
      | false => exact .turnedAway (by simp [admits, hr]) rfl
      | true =>
        refine .ofFinish (by simp [admits, he, hr]) rfl
          (by simp only [accessesOf, he, Option.getD_some]) _ fun u hu => ?_
        exact (commitOf_enableTach_legal he ch debounce ppr exp inv threshold u).symm
  | getRpm ch =>
    refine ⟨_, rfl, ?_⟩
    cases hv : (poll ch s).value with
    | none => exact .busFault (i := .getRpm ch) rfl (by simp [accessesOf, hv]) rfl
    | some v => exact .completed (i := .getRpm ch) rfl (by simp [accessesOf, hv]) (by simp only [answerOf, hv]; rfl)
  | getMaxState ch =>
    refine ⟨_, rfl, ?_⟩
    cases hd : s.cool[ch] with
    | none => exact .turnedAway (by simp [admits, hd]) rfl
    | some d => exact .completed (i := .getMaxState ch) (by simp [admits, hd]) rfl (by simp only [answerOf, hd]; rfl)
  | getCurState ch =>
    refine ⟨_, rfl, ?_⟩
    cases hd : s.cool[ch] with
    | none => exact .turnedAway (by simp [admits, hd]) rfl
    | some d => exact .completed (i := .getCurState ch) (by simp [admits, hd]) rfl (by simp only [answerOf, hd]; rfl)
  | setCurState ch state =>
    refine ⟨_, rfl, ?_⟩
    cases hd : s.cool[ch] with
    | none => exact .turnedAway (by simp [admits, hd]) (by simp [refusalOf, hd])
    | some d =>
      dsimp only
      cases hl : d.levels[state.toNat]? with
      | none => exact .turnedAway (by simp [admits, hd, hl]) (by simp [refusalOf, hd])
      | some level =>
        refine .ofFinish (by simp [admits, hd, hl]) rfl
          (by simp only [accessesOf, levelAt_of_present hd, hl, Option.getD_some]) _ fun u hu => ?_
        obtain ⟨-, -, -, hcool⟩ := hu
        rw [commitOf_setCurState_present (d := d) (by rw [hcool, hd]), hl, Option.getD_some]
  | cfgCoolLevel ch level =>
    refine ⟨_, rfl, ?_⟩
    cases hd : s.cool[ch] with
    | none =>
      refine .completed (by simp [admits, hd]) rfl ?_
      show _ = State.respond (commitOf (.cfgCoolLevel ch level) s) _
      rw [commitOf_cfgCoolLevel_absent hd]
      rfl
    | some d =>
      dsimp only
      by_cases hl : d.levels.length = Config.maxLevels
      · rw [if_pos hl]
        exact .turnedAway (by simp [admits, hd, hl]) rfl
      · rw [if_neg hl]
        refine .completed (by simp [admits, hd, hl]) rfl ?_
        show _ = State.respond (commitOf (.cfgCoolLevel ch level) s) _
        rw [commitOf_cfgCoolLevel_present hd]
        rfl

/-- The inversion of `exec_run`. -/
theorem exec_run_cases {i : Instr} {s t : State} (h : exec i s = .next t) : CommandRun i s t := by
  obtain ⟨t', h', hrun⟩ := exec_run i s
  rw [h'] at h
  cases h
  exact hrun

/-! ### Where no access can fault -/

/-- The store without faults: a function of the store before. -/
theorem exec_store_of_portFaults_false {i : Instr} {s t : State} (h : exec i s = .next t)
    (hp : s.params.portFaults = false) : StoreAlike (if admits i s then commitOf i s else s) t := by
  cases exec_run_cases h with
  | turnedAway ha ht => simp [ha, ht, StoreAlike, KeepsStore]
  | busFault ha hc ht => exact absurd (accessesOf_completed_of_portFaults_false hp i) (by simp [hc])
  | completed ha hc ht =>
    rw [if_pos ha, ht]
    exact (accessesOf_storeAlike i s).afterCommit i

theorem exec_returns_of_portFaults_false {i : Instr} {s t : State} (h : exec i s = .next t)
    (hp : s.params.portFaults = false) :
    Returns s t (if admits i s then answerOf i s else responseWord (refusalOf i s) 0#28 0#32) := by
  cases exec_run_cases h with
  | turnedAway ha ht => simp [ha, ht, Returns]
  | busFault ha hc ht => exact absurd (accessesOf_completed_of_portFaults_false hp i) (by simp [hc])
  | completed ha hc ht => simp [ha, ht, Returns, accessesOf_responses]

theorem StoreAlike.refusalOf_eq {s u : State} (h : StoreAlike s u) (i : Instr) : refusalOf i u = refusalOf i s := by
  obtain ⟨-, -, -, hcool⟩ := h
  cases i <;> simp [refusalOf, hcool]

/-- Only `GET_RPM` answers with something the engine said. -/
theorem StoreAlike.answerOf_eq {s u : State} (h : StoreAlike s u) {i : Instr} (hi : i.opcode ≠ .getRpm) :
    answerOf i u = answerOf i s := by
  obtain ⟨hparams, hpwm, -, hcool⟩ := h
  cases i with
  | getRpm ch => exact absurd rfl hi
  | _ => simp [answerOf, hparams, hpwm, hcool]

theorem StoreAlike.trans {s t u : State} (h : StoreAlike s t) (k : StoreAlike t u) : StoreAlike s u := by
  obtain ⟨hparams, hpwm, htach, hcool⟩ := h
  obtain ⟨kparams, kpwm, ktach, kcool⟩ := k
  exact ⟨kparams.trans hparams, kpwm.trans hpwm, ktach.trans htach, kcool.trans hcool⟩

theorem StoreAlike.symm {s t : State} (h : StoreAlike s t) : StoreAlike t s := by
  obtain ⟨hparams, hpwm, htach, hcool⟩ := h
  exact ⟨hparams.symm, hpwm.symm, htach.symm, hcool.symm⟩

theorem exec_storeAlike {i : Instr} {s₁ s₂ t₁ t₂ : State} (hs : StoreAlike s₁ s₂) (hp : s₁.params.portFaults = false)
    (h₁ : exec i s₁ = .next t₁) (h₂ : exec i s₂ = .next t₂) : StoreAlike t₁ t₂ := by
  have hp₂ : s₂.params.portFaults = false := by rw [hs.1, hp]
  have ht₁ := exec_store_of_portFaults_false h₁ hp
  have ht₂ := exec_store_of_portFaults_false h₂ hp₂
  rw [hs.admits_eq i] at ht₂
  refine ht₁.symm.trans (StoreAlike.trans ?_ ht₂)
  split
  · exact hs.afterCommit i
  · exact hs

theorem exec_sameResponse {i : Instr} {s₁ s₂ t₁ t₂ : State} (hs : StoreAlike s₁ s₂)
    (hp : s₁.params.portFaults = false) (hi : i.opcode ≠ .getRpm) (h₁ : exec i s₁ = .next t₁)
    (h₂ : exec i s₂ = .next t₂) : ∃ r, Returns s₁ t₁ r ∧ Returns s₂ t₂ r := by
  have hp₂ : s₂.params.portFaults = false := by rw [hs.1, hp]
  refine ⟨_, exec_returns_of_portFaults_false h₁ hp, ?_⟩
  rw [← hs.admits_eq i, ← hs.answerOf_eq hi, ← hs.refusalOf_eq i]
  exact exec_returns_of_portFaults_false h₂ hp₂

/-- A word that decodes carries the operation code of its command (rules R41, R49). -/
theorem opcode_code_of_decode {w : CommandWord} {i : Instr} (h : decode w = .ok i) : i.opcode.code = opcField w := by
  unfold decode at h
  cases hop : Opcode.ofCode (opcField w) with
  | none => simp [hop] at h
  | some op =>
    have hi : op.operands w = i := by
      simp only [hop] at h
      split at h
      · exact Except.ok.inj h
      · cases h
    have hopcode : (op.operands w).opcode = op := by cases op <;> rfl
    rw [← hi, hopcode, code_of_ofCode hop]

/-- Settles O21: both words are rejected, or both run the same command on stores that are alike. -/
theorem engineCannotInfluenceTheStore : Obligations.EngineCannotInfluenceTheStore := by
  intro s₁ s₂ t₁ t₂ w rest hparams hstore hp hin₁ hin₂ h₁ h₂
  have hs : StoreAlike s₁.dropInput s₂.dropInput := ⟨hparams, hstore⟩
  cases hd : decode w with
  | error e =>
    rw [step_of_illegalWord hin₁ hd] at h₁
    rw [step_of_illegalWord hin₂ hd] at h₂
    cases h₁
    cases h₂
    exact ⟨hstore, fun _ => ⟨_, rfl, rfl⟩⟩
  | ok i =>
    rw [step_of_command hin₁ hd] at h₁
    rw [step_of_command hin₂ hd] at h₂
    refine ⟨(exec_storeAlike hs hp h₁ h₂).2, fun hopc => ?_⟩
    have hi : i.opcode ≠ .getRpm := by
      intro e
      rw [← opcode_code_of_decode hd, e] at hopc
      exact hopc rfl
    exact exec_sameResponse (s₁ := s₁.dropInput) (s₂ := s₂.dropInput) hs hp hi h₁ h₂

end Sys2Proof.Machine
end

section
/-! PROOF. What a successful command leaves behind: the enables of rule R10 (b), by what the access sequences leave in the
control register, and the cached dividers of rule R9. -/

namespace Sys2Proof.Machine

/-! ### A command that completed -/

/-- The command ran to its commit: every access completed, and the state is as the accesses and the commit leave it. -/
structure Completes (i : Instr) (s t : State) : Prop where
  admitted  : admits i s = true
  completed : (accessesOf i s).completed = true
  regs      : t.regs = (accessesOf i s).state.regs
  store     : StoreAlike (commitOf i s) t

theorem completes_of_run {i : Instr} {s : State} (ha : admits i s = true) (hc : (accessesOf i s).completed = true) :
    Completes i s ((commitOf i (accessesOf i s).state).respond (answerOf i s)) :=
  ⟨ha, hc, by simp, (accessesOf_storeAlike i s).afterCommit i⟩

theorem responseWord_raised_ne_zero {st : Status} (h : st ≠ .ok) : responseWord st 0#28 0#32 ≠ 0#64 := by
  cases st with
  | ok => exact absurd rfl h
  | _ => decide

theorem refusalOf_ne_ok (i : Instr) (s : State) : refusalOf i s ≠ .ok := by
  cases i with
  | setCurState ch state =>
    simp only [refusalOf]
    split <;> decide
  | _ => simp [refusalOf]

/-- The response 0 is no status but `OK`, so the command completed. -/
theorem completes_of_returns_zero {i : Instr} {s t : State} (h : exec i s = .next t) (hr : Returns s t 0#64) :
    Completes i s t := by
  cases exec_run_cases h with
  | turnedAway ha ht =>
    have h0 : responseWord (refusalOf i s) 0#28 0#32 = 0#64 := by simpa [Returns, ht] using hr
    exact absurd h0 (responseWord_raised_ne_zero (refusalOf_ne_ok i s))
  | busFault ha hc ht =>
    have h0 : responseWord .busFault 0#28 0#32 = 0#64 := by simpa [Returns, ht, accessesOf_responses] using hr
    exact absurd h0 (responseWord_raised_ne_zero (by decide))
  | completed ha hc ht => exact ht ▸ completes_of_run ha hc

/-! ### Where none of the next four accesses faults -/

theorem programAccesses_completes {s : State} (h : NoFaultAhead 4 s) (ch : Channel) (r : PwmChannelConfig) (d : Byte) :
    (programAccesses ch r d s).completed = true := by
  unfold programAccesses
  split
  · obtain ⟨t, ht, -⟩ := disableStep_ok (h.mono (by decide)) ch
    rw [ht]
  · obtain ⟨t, x, ht, -⟩ := writeWords_ok h ch (dutyWord r d)
      (ctrlWord r (resolve s.params.inputClockHz r.targetFrequencyHz).coarse
        (resolve s.params.inputClockHz r.targetFrequencyHz).fine)
    simp only [ht]

theorem fastAccesses_completes {s : State} (h : NoFaultAhead 4 s) (ch : Channel) (old d : Byte) :
    (fastAccesses ch old d s).completed = true := by
  unfold fastAccesses
  split
  · obtain ⟨t, ht, -⟩ := disableStep_ok (h.mono (by decide)) ch
    rw [ht]
  · obtain ⟨u, hu, -, -, -, hclean⟩ := regUpdate_ok (n := 2) h ch .duty fallingMask (d.setWidth 32)
    obtain ⟨t, ht, -⟩ := enableStep_ok hclean ch
    rw [hu, AccessRun.andThen, if_pos rfl]
    split
    · rw [ht]
    · rfl

theorem pollFor_completes (ch : Channel) : ∀ {more : Nat} {s : State}, NoFaultAhead (more + 1) s →
    (pollFor ch more s).value.isSome = true
  | 0, s, h => by simp [pollFor, regRead_ok h.1]
  | more + 1, s, h => by
    have ih := pollFor_completes ch (h.afterRead ch .tsts)
    rw [regRead_ok h.1] at ih
    simp only [pollFor, regRead_ok h.1]
    split
    · rfl
    · exact ih

theorem accessesOf_completes {s : State} (h : NoFaultAhead 4 s) (i : Instr) : (accessesOf i s).completed = true := by
  cases i with
  | enablePwm ch freq => exact programAccesses_completes h ch _ _
  | setDuty ch value => exact programAccesses_completes h ch _ _
  | setCurState ch state => exact programAccesses_completes h ch _ _
  | setDutyFast ch value => exact fastAccesses_completes h ch _ _
  | enableTach ch edge debounce ppr exp inv threshold => simp only [accessesOf, regWrite_ok h.1]
  | getRpm ch => exact pollFor_completes ch (h.mono (by decide))
  | _ => rfl

/-- Without faults a command is turned away with nothing changed, or it completes. -/
theorem exec_completes {i : Instr} {s t : State} (h : exec i s = .next t) (hclean : NoFaultAhead 4 s) :
    (∃ st, t = s.raise st) ∨ Completes i s t := by
  cases exec_run_cases h with
  | turnedAway ha ht => exact .inl ⟨_, ht⟩
  | busFault ha hc ht => exact absurd (accessesOf_completes hclean i) (by simp [hc])
  | completed ha hc ht => exact .inr (ht ▸ completes_of_run ha hc)

/-! ### What completed accesses leave in the control register -/

/-- The control word carries both enables or neither, as the duty is 0 or not. -/
def EnablesMatch (ctrl : Word) (d : Byte) : Prop := ctrl &&& enableMask = if d = 0#8 then 0#32 else enableMask

theorem enablesMatchDuty_iff (s : State) (ch : Channel) :
    EnablesMatchDuty s ch ↔ EnablesMatch s.regs[ch].ctrl s.pwm[ch].dutyFallingPoint := Iff.rfl

theorem masked_update (old mask v : Word) : ((old &&& ~~~mask) ||| (v &&& mask)) &&& mask = v &&& mask := by
  apply BitVec.eq_of_getLsbD_eq
  intro i hi
  simp only [BitVec.getLsbD_and, BitVec.getLsbD_or, BitVec.getLsbD_not]
  cases mask.getLsbD i <;> simp

theorem AccessRun.andThen_of_completed {r : AccessRun} {k : State → AccessRun} (h : (r.andThen k).completed = true) :
    r.completed = true ∧ r.andThen k = k r.state := by
  unfold AccessRun.andThen at h ⊢
  split at h
  · next hc => exact ⟨hc, if_pos hc⟩
  · next hc => exact absurd h hc

theorem regRead_regs (ch : Channel) (k : RegKind) (s : State) : (regRead ch k s).state.regs = s.regs := by
  unfold regRead
  split <;> simp

/-- A write changes the register it addresses, to the word written or, on a fault, the engine's (rules R28, R38). -/
theorem regWrite_regs (ch : Channel) (k : RegKind) (v : Word) (s : State) :
    (regWrite ch k v s).state.regs =
      s.regs.set ch (s.regs[ch].put (if s.portFault then s.nextAnswer.word else v) k) := by
  unfold regWrite
  cases s.portFault <;> simp

theorem regWrite_regs_of_completed {ch : Channel} {k : RegKind} {v : Word} {s : State}
    (h : (regWrite ch k v s).completed = true) :
    (regWrite ch k v s).state.regs = s.regs.set ch (s.regs[ch].put v k) := by
  cases hf : s.portFault with
  | false => simp [regWrite_regs, hf]
  | true => simp [regWrite, hf] at h

/-- A completed read-modify-write has put the masked bits into whatever the read returned (rule R29). -/
theorem regUpdate_regs_of_completed {ch : Channel} {k : RegKind} {mask v : Word} {s : State}
    (h : (regUpdate ch k mask v s).completed = true) :
    ∃ old, (regUpdate ch k mask v s).state.regs =
      s.regs.set ch (s.regs[ch].put ((old &&& ~~~mask) ||| (v &&& mask)) k) := by
  rw [regUpdate_eq_andThen] at h ⊢
  obtain ⟨-, hrun⟩ := AccessRun.andThen_of_completed h
  rw [hrun] at h ⊢
  refine ⟨(regRead ch k s).value.getD 0#32, ?_⟩
  rw [regWrite_regs_of_completed h, regRead_regs]

/-- A completed update of the enables leaves them as it says, whatever the register held (rules R72, R73). -/
theorem regUpdate_ctrl_enables {ch : Channel} {v : Word} {s : State}
    (h : (regUpdate ch .ctrl enableMask v s).completed = true) :
    (regUpdate ch .ctrl enableMask v s).state.regs[ch].ctrl &&& enableMask = v &&& enableMask := by
  obtain ⟨old, hregs⟩ := regUpdate_regs_of_completed h
  rw [hregs]
  simpa using masked_update old enableMask v

theorem enableStep_enables {ch : Channel} {s : State} (h : (enableStep ch s).completed = true) :
    (enableStep ch s).state.regs[ch].ctrl &&& enableMask = enableMask :=
  (regUpdate_ctrl_enables h).trans (by decide)

theorem disableStep_enables {ch : Channel} {s : State} (h : (disableStep ch s).completed = true) :
    (disableStep ch s).state.regs[ch].ctrl &&& enableMask = 0#32 :=
  (regUpdate_ctrl_enables h).trans (by decide)

/-- The programming procedure makes the enables match its duty, whatever the register held (rules R74, R75). -/
theorem programAccesses_enables {ch : Channel} {r : PwmChannelConfig} {d : Byte} {s : State}
    (h : (programAccesses ch r d s).completed = true) :
    EnablesMatch (programAccesses ch r d s).state.regs[ch].ctrl d := by
  unfold EnablesMatch
  unfold programAccesses at h ⊢
  by_cases hd : d = 0#8
  · rw [if_pos hd] at h
    rw [if_pos hd, if_pos hd]
    exact disableStep_enables h
  · rw [if_neg hd] at h
    rw [if_neg hd, if_neg hd]
    obtain ⟨-, hduty⟩ := AccessRun.andThen_of_completed h
    unfold writeWords at h ⊢
    rw [hduty] at h ⊢
    obtain ⟨-, hctrl⟩ := AccessRun.andThen_of_completed h
    rw [hctrl] at h ⊢
    exact enableStep_enables h

theorem regUpdate_duty_keeps_ctrl {ch : Channel} {mask v : Word} {s : State}
    (h : (regUpdate ch .duty mask v s).completed = true) :
    (regUpdate ch .duty mask v s).state.regs[ch].ctrl = s.regs[ch].ctrl := by
  obtain ⟨old, hregs⟩ := regUpdate_regs_of_completed h
  simp [hregs]

/-- The fast path makes the enables match where it disables or re-enables the channel, and keeps them matching from one
nonzero duty to another (rule R77). -/
theorem fastAccesses_enables {ch : Channel} {old d : Byte} {s : State} (h : (fastAccesses ch old d s).completed = true)
    (hpre : d = 0#8 ∨ old = 0#8 ∨ EnablesMatch s.regs[ch].ctrl old) :
    EnablesMatch (fastAccesses ch old d s).state.regs[ch].ctrl d := by
  unfold EnablesMatch
  unfold fastAccesses at h ⊢
  by_cases hd : d = 0#8
  · rw [if_pos hd] at h
    rw [if_pos hd, if_pos hd]
    exact disableStep_enables h
  · rw [if_neg hd] at h
    rw [if_neg hd, if_neg hd]
    obtain ⟨hduty, hrun⟩ := AccessRun.andThen_of_completed h
    rw [hrun] at h ⊢
    by_cases hold : old = 0#8
    · simp only [if_pos hold] at h ⊢
      exact enableStep_enables h
    · have hctrl := (hpre.resolve_left hd).resolve_left hold
      rw [EnablesMatch, if_neg hold] at hctrl
      simp only [if_neg hold]
      rw [regUpdate_duty_keeps_ctrl hduty, hctrl]

/-! ### The commands that leave the enables alone -/

theorem ctrl_of_put_tctrl (regs : Vector ChannelRegs 16) (ch c : Channel) (v : Word) :
    (regs.set ch (regs[ch].put v .tctrl))[c].ctrl = regs[c].ctrl := by
  rcases getElem_set_cases regs ch c (regs[ch].put v .tctrl) with ⟨rfl, h⟩ | h
  · rw [h, ChannelRegs.put_tctrl]
  · rw [h]

theorem regWrite_tctrl_keeps_ctrl (ch c : Channel) (v : Word) (s : State) :
    (regWrite ch .tctrl v s).state.regs[c].ctrl = s.regs[c].ctrl := by
  simp only [regWrite_regs, ctrl_of_put_tctrl]

theorem pollFor_regs (ch : Channel) : ∀ (more : Nat) (s : State), (pollFor ch more s).state.regs = s.regs
  | 0, s => by
    unfold pollFor
    split <;> exact regRead_regs ch .tsts s
  | more + 1, s => by
    unfold pollFor
    split
    · exact regRead_regs ch .tsts s
    · split
      · exact regRead_regs ch .tsts s
      · exact (pollFor_regs ch more _).trans (regRead_regs ch .tsts s)

/-- The commands that write the enables (rules R74, R75, R77, R78, R108). -/
def WritesEnables (op : Opcode) : Prop :=
  op = .setDuty ∨ op = .setDutyFast ∨ op = .setCurState ∨ op = .enablePwm

theorem accessesOf_keeps_ctrl {i : Instr} (hi : ¬ WritesEnables i.opcode) (s : State) (c : Channel) :
    (accessesOf i s).state.regs[c].ctrl = s.regs[c].ctrl := by
  cases i with
  | setDuty | setDutyFast | setCurState | enablePwm => simp [WritesEnables, Instr.opcode] at hi
  | enableTach ch edge debounce ppr exp inv threshold => exact regWrite_tctrl_keeps_ctrl ch c _ s
  | getRpm ch => exact congrArg (fun regs : Vector ChannelRegs 16 => regs[c].ctrl) (pollFor_regs ch _ s)
  | _ => rfl

theorem commitOf_keeps_duty {i : Instr} (hi : ¬ WritesEnables i.opcode) (s : State) (c : Channel) :
    (commitOf i s).pwm[c].dutyFallingPoint = s.pwm[c].dutyFallingPoint := by
  obtain ⟨-, hduty, -⟩ := (commitOf_pwmChange i s c).writers
  by_contra hne
  rcases hduty hne with h | h | h
  · exact hi (.inl h)
  · exact hi (.inr (.inl h))
  · exact hi (.inr (.inr (.inl h)))

/-! ### The enables after a completed command -/

/-- The uses of a command that set or clear both enables, whatever they were. -/
def Reprograms (s : State) (ch : Channel) : Instr → Prop
  | .setDuty c _ => c = ch
  | .enablePwm c _ => c = ch
  | .setCurState c _ => c = ch
  | .setDutyFast c value => c = ch ∧ (value.setWidth 8 = 0#8 ∨ s.pwm[ch].dutyFallingPoint = 0#8)
  | _ => False

/-- A completed command of the channel makes the enables match the duty it commits where it reprograms the channel, and
keeps them matching otherwise. -/
theorem accessesOf_enables {i : Instr} {s : State} {ch : Channel} (hch : channelOf i = some ch)
    (ha : admits i s = true) (hc : (accessesOf i s).completed = true)
    (hpre : Reprograms s ch i ∨ EnablesMatchDuty s ch) :
    EnablesMatch (accessesOf i s).state.regs[ch].ctrl (commitOf i s).pwm[ch].dutyFallingPoint := by
  by_cases hi : WritesEnables i.opcode
  · cases i with
    | setDuty c value =>
      cases hch
      simpa [commitOf, accessesOf] using programAccesses_enables hc
    | enablePwm c freq =>
      cases hch
      simpa [commitOf, accessesOf, PwmChannelConfig.cache] using programAccesses_enables hc
    | setCurState c state =>
      cases hch
      cases hd : s.cool[ch] with
      | none => simp [admits, hd] at ha
      | some d =>
        rw [commitOf_setCurState_present hd, ← levelAt_of_present hd]
        simpa [accessesOf] using programAccesses_enables hc
    | setDutyFast c value =>
      cases hch
      have hpre' : value.setWidth 8 = 0#8 ∨ s.pwm[ch].dutyFallingPoint = 0#8 ∨
          EnablesMatch s.regs[ch].ctrl s.pwm[ch].dutyFallingPoint := by
        rcases hpre with ⟨-, h | h⟩ | h
        · exact .inl h
        · exact .inr (.inl h)
        · exact .inr (.inr h)
      simpa [commitOf, accessesOf] using fastAccesses_enables hc hpre'
    | _ => simp [WritesEnables, Instr.opcode] at hi
  · have hkept : EnablesMatchDuty s ch := by
      refine hpre.resolve_left fun h => hi ?_
      cases i with
      | setDuty | enablePwm | setCurState | setDutyFast => simp [WritesEnables, Instr.opcode]
      | _ => exact h.elim
    rw [accessesOf_keeps_ctrl hi, commitOf_keeps_duty hi]
    exact hkept

theorem Completes.enablesMatchDuty {i : Instr} {s t : State} {ch : Channel} (h : Completes i s t)
    (hch : channelOf i = some ch) (hpre : Reprograms s ch i ∨ EnablesMatchDuty s ch) : EnablesMatchDuty t ch := by
  obtain ⟨ha, hc, hregs, -, hpwm, -⟩ := h
  rw [enablesMatchDuty_iff, hregs, hpwm]
  exact accessesOf_enables hch ha hc hpre

/-- A command keeps the enables of every channel matching, its own or another. -/
theorem exec_enablesMatchDuty {i : Instr} {s t : State} {ch : Channel} (h : exec i s = .next t)
    (hclean : NoFaultAhead 4 s) (hs : EnablesMatchDuty s ch) : EnablesMatchDuty t ch := by
  by_cases hch : channelOf i = some ch
  · rcases exec_completes h hclean with ⟨st, rfl⟩ | hcompletes
    · exact hs
    · exact hcompletes.enablesMatchDuty hch (.inr hs)
  · obtain ⟨hpwm, -, -, hregs⟩ := commandTouchesOnlyItsChannel i s t ch h hch
    rwa [enablesMatchDuty_iff, hpwm, hregs]

/-- Settles O15: a rejected word changes nothing, and a command keeps the enables by `exec_enablesMatchDuty`. -/
theorem commandsKeepEnablesMatchingDuty : Obligations.CommandsKeepEnablesMatchingDuty := by
  intro s t w rest ch _ hclean hin hs hstep
  rcases step_command_cases hin hstep with rfl | ⟨i, -, hi⟩
  · exact hs
  · exact exec_enablesMatchDuty (s := s.dropInput) hi (NoFaultAhead.congr (s := s) rfl rfl rfl hclean) hs

/-- Settles O16: each of the listed commands reprograms the channel. -/
theorem programmingMakesEnablesMatchDuty : Obligations.ProgrammingMakesEnablesMatchDuty := by
  intro s t ch v i _ hi h hr
  have hcompletes := completes_of_returns_zero h hr
  rcases hi with rfl | rfl | rfl | ⟨rfl, hfast⟩
  · exact hcompletes.enablesMatchDuty rfl (.inl rfl)
  · exact hcompletes.enablesMatchDuty rfl (.inl rfl)
  · exact hcompletes.enablesMatchDuty rfl (.inl rfl)
  · refine hcompletes.enablesMatchDuty rfl (.inl ⟨rfl, hfast.imp_left fun hv => ?_⟩)
    simp [hv]

/-! ### The cached dividers -/

/-- The cached fields of a record are what the resolver gives for its target (rule R9). -/
def PwmChannelConfig.CacheHolds (clk : Word) (r : PwmChannelConfig) : Prop :=
  let q := resolve clk r.targetFrequencyHz
  r.coarse = q.coarse ∧ r.fine = q.fine ∧ r.achievedFrequencyHz = q.achieved

theorem cacheValid_iff (s : State) (ch : Channel) :
    CacheValid s ch ↔ s.pwm[ch].CacheHolds s.params.inputClockHz := Iff.rfl

theorem PwmChannelConfig.cacheHolds_cache (clk : Word) (r : PwmChannelConfig) :
    (r.cache (resolve clk r.targetFrequencyHz)).CacheHolds clk := ⟨rfl, rfl, rfl⟩

/-- A nonzero duty writes the cache (rule R74). -/
theorem PwmChannelConfig.cacheHolds_programmed (clk : Word) (r : PwmChannelConfig) {d : Byte} (hd : d ≠ 0#8) :
    (r.programmed clk d).CacheHolds clk := by
  rw [PwmChannelConfig.programmed, if_neg hd]
  exact r.cacheHolds_cache clk

/-- Programming keeps a valid cache, for the duty 0 as well (rules R74, R75). -/
theorem PwmChannelConfig.CacheHolds.programmed {clk : Word} {r : PwmChannelConfig} (h : r.CacheHolds clk) (d : Byte) :
    (r.programmed clk d).CacheHolds clk := by
  by_cases hd : d = 0#8
  · rw [PwmChannelConfig.programmed, if_pos hd]
    exact h
  · exact r.cacheHolds_programmed clk hd

theorem PwmChange.cacheHolds {i : Instr} {s : State} {c : Channel} {r : PwmChannelConfig} (h : PwmChange s c r i)
    (hs : CacheValid s c) : r.CacheHolds s.params.inputClockHz := by
  cases h with
  | kept _ hr => exact hr ▸ hs
  | retargeted freq hr => exact hr ▸ PwmChannelConfig.cacheHolds_cache _ _
  | dutySet value hr => exact hr ▸ PwmChannelConfig.CacheHolds.programmed hs _
  | levelSet state level hr => exact hr ▸ PwmChannelConfig.CacheHolds.programmed hs _
  | fastDutySet value hr => exact hr ▸ hs
  | failsafeSet enabled edge point hr => exact hr ▸ hs
  | flagsSet sync inverted hr => exact hr ▸ hs

theorem exec_cacheValid {i : Instr} {s t : State} {ch : Channel} (h : exec i s = .next t) (hs : CacheValid s ch) :
    CacheValid t ch := by
  rw [cacheValid_iff, exec_params h]
  exact (exec_pwmChange h ch).cacheHolds hs

/-- The cache after a completed command is that of the record it commits. -/
theorem Completes.cacheValid {i : Instr} {s t : State} {ch : Channel} (h : Completes i s t)
    (hcommit : (commitOf i s).pwm[ch].CacheHolds s.params.inputClockHz) : CacheValid t ch := by
  obtain ⟨-, -, -, hparams, hpwm, -⟩ := h
  rwa [cacheValid_iff, hparams, hpwm, commitOf_params]

/-- A nonzero value in the range of a duty is a nonzero byte (rule R76). -/
theorem setWidth_ne_zero_of_dutyInRange {v : Word} (hv : v ≠ 0#32) (h : dutyInRange v = true) :
    v.setWidth 8 ≠ 0#8 := by
  have hle : v.toNat ≤ 255 := by simpa [dutyInRange] using h
  intro h0
  have hmod : v.toNat % 256 = 0 := by simpa using congrArg BitVec.toNat h0
  have hzero : v.toNat = 0 := by omega
  exact hv (BitVec.eq_of_toNat_eq hzero)

/-- Settles O18: every change of a record keeps a valid cache, and the three commands commit a record whose cache they have
written. -/
theorem cacheIsValidOnceWritten : Obligations.CacheIsValidOnceWritten := by
  refine ⟨fun s t w rest ch hin hs hstep => ?_, fun s t ch freq h hr => ?_, fun s t ch v hv h hr => ?_,
    fun s t ch v hduty h hr => ?_⟩
  · rcases step_command_cases hin hstep with rfl | ⟨i, -, hi⟩
    · exact hs
    · exact exec_cacheValid (s := s.dropInput) hi hs
  · refine (completes_of_returns_zero h hr).cacheValid ?_
    simpa [commitOf] using
      PwmChannelConfig.cacheHolds_cache s.params.inputClockHz { s.pwm[ch] with targetFrequencyHz := freq }
  · have hcompletes := completes_of_returns_zero h hr
    refine hcompletes.cacheValid ?_
    simpa [commitOf] using
      s.pwm[ch].cacheHolds_programmed s.params.inputClockHz (setWidth_ne_zero_of_dutyInRange hv hcompletes.admitted)
  · have hcompletes := completes_of_returns_zero h hr
    have ha := hcompletes.admitted
    obtain ⟨-, hpwm, -⟩ := hcompletes.store
    refine hcompletes.cacheValid ?_
    cases hd : s.cool[ch] with
    | none => simp [admits, hd] at ha
    | some d =>
      rw [hpwm, commitOf_setCurState_present hd] at hduty
      rw [commitOf_setCurState_present hd]
      simpa using s.pwm[ch].cacheHolds_programmed s.params.inputClockHz (by simpa using hduty)

end Sys2Proof.Machine
end

section
/-! PROOF. The Register Access Port as a memory: what plain storage holds after a write, what a read or a write that faults
leaves, the status poll read by read, and the response `BUS_FAULT`, returned exactly on a faulted access. -/

namespace Sys2Proof.Machine

/-! ### What plain storage holds -/

theorem stored_store_same {k : RegKind} (hk : k ≠ .tsts) (s : State) (ch : Channel) (v : Word) :
    (s.store ch k v).stored ch k = some v := by
  cases k with
  | tsts => exact absurd rfl hk
  | _ => simp [State.stored]

theorem stored_store_otherKind {k k' : RegKind} (hk : k' ≠ k) (s : State) (ch : Channel) (v : Word) :
    (s.store ch k' v).stored ch k = s.stored ch k := by
  cases k <;> cases k' <;> simp [State.stored] at hk ⊢

/-- A write to another register, of this or of another channel, leaves a register as it was (rule R33). -/
theorem stored_store_other {ch c : Channel} {k k' : RegKind} (h : c ≠ ch ∨ k' ≠ k) (s : State) (v : Word) :
    (s.store c k' v).stored ch k = s.stored ch k := by
  by_cases hc : ch = c
  · subst hc
    exact stored_store_otherKind (h.resolve_left fun hne => hne rfl) s ch v
  · have hregs : (s.store c k' v).regs[ch] = s.regs[ch] := regs_put_of_ne s k' v hc
    cases k <;> simp only [State.stored, hregs]

/-- Under plain storage a read that does not fault returns what is stored (rule R33). -/
theorem regRead_value_of_stored {s : State} {ch : Channel} {k : RegKind} {v : Word} (hplain : s.params.plainStorage = true)
    (hclean : s.portFault = false) (hstored : s.stored ch k = some v) : (regRead ch k s).value = some v := by
  rw [regRead_ok hclean, State.readValue, if_pos hplain, hstored, Option.getD_some]

/-- A write that does not fault leaves what `State.store` stores, and the parameters as they were (rule R28). -/
theorem regWrite_stored {s : State} (hclean : s.portFault = false) (ch c : Channel) (k k' : RegKind) (v : Word) :
    (regWrite c k' v s).state.stored ch k = (s.store c k' v).stored ch k ∧
      (regWrite c k' v s).state.params = s.params := by
  rw [regWrite_ok hclean]
  refine ⟨?_, by simp⟩
  cases k <;> simp

/-- Settles O31: a write stores its word, and a write elsewhere leaves it stored. -/
theorem plainStorageReadsBackTheLastWrite : Obligations.PlainStorageReadsBackTheLastWrite := by
  intro s ch c k k' v v' hplain hclean hk hother
  obtain ⟨hstored, hparams⟩ := regWrite_stored hclean.1 ch ch k k v
  rw [stored_store_same hk] at hstored
  have hclean1 := hclean.afterWrite ch k v
  obtain ⟨hstored', hparams'⟩ := regWrite_stored hclean1.1 ch c k k' v'
  rw [stored_store_other hother, hstored] at hstored'
  have hclean2 := hclean1.afterWrite c k' v'
  exact ⟨regRead_value_of_stored (by rw [hparams, hplain]) hclean1.1 hstored,
    regRead_value_of_stored (by rw [hparams', hparams, hplain]) hclean2.1 hstored'⟩

/-! ### An access that faults -/

theorem regRead_faults {s : State} (h : s.portFault = true) (ch : Channel) (k : RegKind) :
    regRead ch k s = { value := none, state := s.dropAnswer.record (.readFault (regOffset ch k)) } := by
  simp [regRead, h]

/-- A faulted write leaves the engine's word in the register it addresses (rule R38, spec/93 U2). -/
theorem regWrite_faults {s : State} (h : s.portFault = true) (ch : Channel) (k : RegKind) (v : Word) :
    regWrite ch k v s =
      { completed := false,
        state := (s.dropAnswer.record (.writeFault (regOffset ch k) v)).store ch k s.nextAnswer.word } := by
  simp [regWrite, h]

/-- A read-modify-write whose read faults ends with that read (rule R29). -/
theorem regUpdate_readFaults {s : State} (h : s.portFault = true) (ch : Channel) (k : RegKind) (mask v : Word) :
    regUpdate ch k mask v s =
      { completed := false, state := s.dropAnswer.record (.readFault (regOffset ch k)) } := by
  simp [regUpdate, regRead_faults h]

/-- Settles O33: without faults the value read is the one masked and written; a faulted read is the only access. -/
theorem regUpdateReadsThenWrites : Obligations.RegUpdateReadsThenWrites := by
  intro s ch k mask v
  refine ⟨fun hclean => ?_, fun hfault => ?_⟩
  · obtain ⟨t, hrun, ⟨-, -, -, hissues⟩, -⟩ := regUpdate_ok (n := 0) hclean ch k mask v
    rw [hrun]
    exact ⟨s.readValue ch k, rfl, hissues⟩
  · rw [regUpdate_readFaults hfault]
    exact ⟨rfl, by simp [Issues]⟩

/-- The full path whose control write faults: two accesses, the duty word in its register and the engine's word in the
control register (rules R38, R74, R145). -/
theorem writeWords_ctrlWriteFaults {s : State} (hduty : s.portFault = false) (hctrl : s.dropAnswer.portFault = true)
    (ch : Channel) (dw cw : Word) :
    ∃ t, writeWords ch dw cw s = { completed := false, state := t } ∧
      OnlyAccesses s t [.write (regOffset ch .duty) dw, .writeFault (regOffset ch .ctrl) cw] ∧
      t.regs = s.regs.set ch { s.regs[ch] with duty := dw, ctrl := s.dropAnswer.nextAnswer.word } := by
  have hfault : ((s.dropAnswer.record (.write (regOffset ch .duty) dw)).store ch .duty dw).portFault = true := by
    simpa using hctrl
  rw [writeWords, regWrite_ok hduty, AccessRun.andThen, if_pos rfl, regWrite_faults hfault]
  refine ⟨_, rfl, ?_, ?_⟩
  · simp [OnlyAccesses, KeepsStore, KeepsSurroundings, Issues]
  · simp

/-- A nonzero duty is programmed by the full path (rule R74). -/
theorem programAccesses_of_ne_zero {d : Byte} (hd : d ≠ 0#8) (ch : Channel) (r : PwmChannelConfig) (s : State) :
    programAccesses ch r d s =
      writeWords ch (dutyWord r d)
        (ctrlWord r (resolve s.params.inputClockHz r.targetFrequencyHz).coarse
          (resolve s.params.inputClockHz r.targetFrequencyHz).fine) s := by
  rw [programAccesses, if_neg hd]

/-- An admitted command with a faulted access commits nothing and returns `BUS_FAULT` (rules R38, R125). -/
theorem exec_of_faulted {i : Instr} {s : State} (ha : admits i s = true) (hc : (accessesOf i s).completed = false) :
    exec i s = .next ((accessesOf i s).state.raise .busFault) := by
  obtain ⟨t, hexec, hrun⟩ := exec_run i s
  cases hrun with
  | turnedAway ha' ht => exact absurd ha (by simp [ha'])
  | busFault _ _ ht => rw [hexec, ht]
  | completed _ hc' ht => exact absurd hc' (by simp [hc])

/-- Settles O44: the first answer completes the duty write, the second faults the control write, and `AccessRun.finish` then
commits nothing. -/
theorem faultedControlWriteLeavesAMixedState : Obligations.FaultedControlWriteLeavesAMixedState := by
  intro ch value s b a rest hpos hle hfaults hanswers
  have hduty : s.portFault = false := by simp [State.portFault, nextAnswer_of_cons hanswers]
  have hnext : s.dropAnswer.nextAnswer = { faults := true, word := a } :=
    nextAnswer_of_cons (answers := rest) (by simp [hanswers])
  have hctrl : s.dropAnswer.portFault = true := by simp [State.portFault, hnext, hfaults]
  have hrange : dutyInRange value = true := by simpa [dutyInRange] using hle
  have hbyte : BitVec.ofNat 8 value.toNat = value.setWidth 8 := rfl
  have hd : value.setWidth 8 ≠ 0#8 :=
    setWidth_ne_zero_of_dutyInRange (fun h => by simp [h] at hpos) hrange
  rw [hbyte]
  obtain ⟨u, hrun, ⟨hstore, hsurroundings, hresponses, hissues⟩, hregs⟩ :=
    writeWords_ctrlWriteFaults hduty hctrl ch (dutyWord s.pwm[ch] (value.setWidth 8))
      (ctrlWord s.pwm[ch] (resolve s.params.inputClockHz s.pwm[ch].targetFrequencyHz).coarse
        (resolve s.params.inputClockHz s.pwm[ch].targetFrequencyHz).fine)
  have haccesses : accessesOf (.setDuty ch value) s = { completed := false, state := u } :=
    (programAccesses_of_ne_zero hd ch s.pwm[ch] s).trans hrun
  have hexec := exec_of_faulted (i := .setDuty ch value) hrange (by rw [haccesses])
  rw [haccesses] at hexec
  rw [hnext] at hregs
  exact ⟨_, hexec, hissues, hregs, hstore, hsurroundings,
    congrArg (· ++ [responseWord .busFault 0#28 0#32]) hresponses⟩

/-! ### The status poll, read by read -/

theorem regRead_tsts_of_answer {s : State} {v : Word} {rest : List EngineAnswer}
    (h : s.answers = { faults := false, word := v } :: rest) (ch : Channel) :
    (regRead ch .tsts s).value = some v ∧ (regRead ch .tsts s).state.answers = rest := by
  obtain ⟨hvalue, hanswers, -⟩ := engineAnswersReadsWithAnyWord s ch .tsts v rest h (.inl rfl)
  exact ⟨hvalue, hanswers⟩

section Poll

variable {s : State} {v : Word} {rest : List EngineAnswer}

/-- The last read is returned whatever it is, stale where bit 20 is clear (rule R94). -/
theorem pollFor_last (h : s.answers = { faults := false, word := v } :: rest) (ch : Channel) :
    (pollFor ch 0 s).value = some (v, !fullFlag v) ∧ (pollFor ch 0 s).state.answers = rest := by
  obtain ⟨hvalue, hanswers⟩ := regRead_tsts_of_answer h ch
  simpa [pollFor, hvalue] using hanswers

theorem pollFor_of_full (h : s.answers = { faults := false, word := v } :: rest) (hfull : fullFlag v = true)
    (ch : Channel) (more : Nat) : (pollFor ch (more + 1) s).value = some (v, false) := by
  obtain ⟨hvalue, -⟩ := regRead_tsts_of_answer h ch
  simp [pollFor, hvalue, hfull]

theorem pollFor_of_notFull (h : s.answers = { faults := false, word := v } :: rest) (hclear : fullFlag v = false)
    (ch : Channel) (more : Nat) : pollFor ch (more + 1) s = pollFor ch more (regRead ch .tsts s).state := by
  obtain ⟨hvalue, -⟩ := regRead_tsts_of_answer h ch
  simp [pollFor, hvalue, hclear]

end Poll

/-- Settles O48: each read takes the next answer, and a clear bit 20 hands the poll on to the reads that are left. -/
theorem pollTakesTheEngineAnswersInOrder : Obligations.PollTakesTheEngineAnswersInOrder := by
  intro ch s a b c rest _ h
  have h1 := (regRead_tsts_of_answer h ch).2
  have h2 := (regRead_tsts_of_answer h1 ch).2
  have hpoll : poll ch s = pollFor ch 2 s := rfl
  rw [hpoll]
  refine ⟨fun ha => pollFor_of_full h ha ch 1, fun ha hb => ?_, fun ha hb => ?_⟩
  · rw [pollFor_of_notFull h ha]
    exact pollFor_of_full h1 hb ch 0
  · rw [pollFor_of_notFull h ha, pollFor_of_notFull h1 hb]
    exact pollFor_last h2 ch

/-! ### `BUS_FAULT` and the faulted access -/

theorem FaultsOnlyLast.faulted_iff {completed : Bool} {l : List PortAccess} (h : FaultsOnlyLast completed l) :
    completed = false ↔ ∃ a ∈ l, a.faulted = true := by
  cases completed with
  | true =>
    have hclean : ∀ a ∈ l, a.faulted = false := h
    refine ⟨fun hf => Bool.noConfusion hf, fun ⟨a, ha, hfault⟩ => ?_⟩
    rw [hclean a ha] at hfault
    cases hfault
  | false =>
    obtain ⟨init, a, rfl, hfault, -⟩ := h
    exact ⟨fun _ => ⟨a, by simp, hfault⟩, fun _ => rfl⟩

theorem FaultsOnlyLast.dropLast_clean {completed : Bool} {l : List PortAccess} (h : FaultsOnlyLast completed l) :
    ∀ a ∈ l.dropLast, a.faulted = false := by
  cases completed with
  | true => exact fun a ha => h a (List.mem_of_mem_dropLast ha)
  | false =>
    obtain ⟨init, a, rfl, -, hclean⟩ := h
    simpa using hclean

/-- A command word led from `s` to `t` by the accesses `l`, of which at most the last faulted, and then only where
`PORT_FAULTS` is true; its response `r` is `BUS_FAULT` exactly where not all of them completed. -/
def ReportsFaults (s t : State) (l : List PortAccess) (r : ResponseWord) : Prop :=
  ∃ completed, Issues s t l ∧ Returns s t r ∧ FaultsOnlyLast completed l ∧
    (statusField r = 2#4 ↔ completed = false) ∧ (s.params.portFaults = false → completed = true)

/-- Status 2 is `BUS_FAULT` and no other (rule R123). -/
theorem statusField_eq_two_iff (st : Status) (aux : BitVec 28) (val : Word) :
    statusField (responseWord st aux val) = 2#4 ↔ st = .busFault := by
  rw [statusField_responseWord]
  cases st <;> decide

/-- A command that is turned away, and a word that is rejected, issues no access and reports none. -/
theorem reportsFaults_raise {st : Status} (h : st ≠ .busFault) (s : State) :
    ReportsFaults s (s.raise st) [] (responseWord st 0#28 0#32) :=
  ⟨true, by simp [Issues], rfl, by simp [FaultsOnlyLast], by simp [statusField_eq_two_iff, h], fun _ => rfl⟩

theorem exec_reportsFaults {i : Instr} {s t : State} (h : exec i s = .next t) : ∃ l r, ReportsFaults s t l r := by
  cases exec_cases h with
  | turnedAway st hst ha =>
    refine ⟨[], _, reportsFaults_raise ?_ s⟩
    rcases hst with rfl | rfl <;> decide
  | busFault u l ha hacc =>
    obtain ⟨⟨-, -, hresp, htrace⟩, -, -, hfaults, hclean, -⟩ := hacc
    exact ⟨l, responseWord .busFault 0#28 0#32, false, htrace, by simp [Returns, hresp], hfaults,
      by simp [statusField_eq_two_iff], hclean⟩
  | completed u l aux val ha hacc =>
    obtain ⟨⟨-, -, hresp, htrace⟩, -, -, hfaults, hclean, -⟩ := hacc
    exact ⟨l, responseWord .ok aux val, true, by simpa [Issues] using htrace, by simp [Returns, hresp], hfaults,
      by simp [statusField_eq_two_iff], hclean⟩

theorem step_reportsFaults {s t : State} {w : CommandWord} {rest : List HostInput} (hin : s.inputs = .command w :: rest)
    (hstep : step s = .next t) : ∃ l r, ReportsFaults s t l r := by
  rcases step_command_cases hin hstep with rfl | ⟨i, -, hi⟩
  · exact ⟨[], _, reportsFaults_raise (st := .illegalCommand) (by decide) s.dropInput⟩
  · exact exec_reportsFaults (s := s.dropInput) hi

/-- Settles O10: the accesses and the response of a step are unique, so they are those of `step_reportsFaults`. -/
theorem busFaultExactlyOnAFaultedAccess : Obligations.BusFaultExactlyOnAFaultedAccess := by
  intro s t w rest r l hin hstep hreturns hissues
  obtain ⟨l', r', completed, hissues', hreturns', hfaults, hstatus, hclean⟩ := step_reportsFaults hin hstep
  obtain rfl : l' = l := List.append_cancel_left (hissues'.symm.trans hissues)
  obtain rfl : r' = r := by simpa using List.append_cancel_left (hreturns'.symm.trans hreturns)
  refine ⟨hstatus.trans hfaults.faulted_iff, hfaults.dropLast_clean, fun hnone => ?_⟩
  have hcompleted := hclean hnone
  subst hcompleted
  exact hfaults

end Sys2Proof.Machine
end

section
/-! PROOF. Commands and their legal spellings are in bijection: `operands_encode` reads every operand back from the encoded
word, and `encode_operands` says that encoding the operands of a word keeps every bit but the must-be-0 ones. Decoding,
encoding and the opcode table follow from these two and from `decode_eq_ok_iff`. -/

namespace Sys2Proof

/-! ### Fields side by side -/

theorem append_eq_append_iff {m n : Nat} {a b : BitVec m} {c d : BitVec n} : a ++ c = b ++ d ↔ a = b ∧ c = d := by
  refine ⟨fun h => ⟨?_, ?_⟩, fun ⟨hab, hcd⟩ => by rw [hab, hcd]⟩
  · simpa [BitVec.extractLsb'_append_eq_left] using congrArg (·.extractLsb' n m) h
  · simpa [BitVec.extractLsb'_append_eq_right] using congrArg (·.extractLsb' 0 n) h

/-- A field that holds two parts side by side is two fields. -/
theorem extractLsb'_eq_append_iff {n m k start : Nat} {w : BitVec n} {hi : BitVec m} {lo : BitVec k} :
    w.extractLsb' start (m + k) = hi ++ lo ↔ w.extractLsb' (start + k) m = hi ∧ w.extractLsb' start k = lo := by
  rw [← BitVec.extractLsb'_append_extractLsb'_eq_extractLsb' rfl, append_eq_append_iff]

theorem ofBool_getLsbD (w : CommandWord) (i : Nat) : BitVec.ofBool (w.getLsbD i) = w.extractLsb' i 1 := by
  ext j hj
  obtain rfl : j = 0 := by omega
  simp

theorem getLsbD_of_field {w : CommandWord} {i : Nat} {b : Bool} (h : w.extractLsb' i 1 = BitVec.ofBool b) :
    w.getLsbD i = b := by
  rwa [← ofBool_getLsbD, BitVec.ofBool_eq_iff_eq] at h

/-! ### Every operand read back (rule R43) -/

section Fields

variable {w : CommandWord}

theorem argWord_fields {v : Word} (h : w.extractLsb' 0 52 = argWord v) : w.extractLsb' 0 32 = v := by
  obtain ⟨-, hv⟩ := (extractLsb'_eq_append_iff (k := 32)).1 h
  exact hv

theorem argLevel_fields {level : Byte} (h : w.extractLsb' 0 52 = argLevel level) : w.extractLsb' 0 8 = level := by
  obtain ⟨-, hlevel⟩ := (extractLsb'_eq_append_iff (k := 8)).1 h
  exact hlevel

theorem argTach_fields {edge debounce : BitVec 2} {ppr : Byte} {exp : BitVec 4} {inv : Bool} {threshold : Word}
    (h : w.extractLsb' 0 52 = argTach edge debounce ppr exp inv threshold) :
    w.extractLsb' 44 2 = edge ∧ w.extractLsb' 46 2 = debounce ∧ w.extractLsb' 32 8 = ppr ∧
      w.extractLsb' 40 4 = exp ∧ w.getLsbD 48 = inv ∧ w.extractLsb' 0 32 = threshold := by
  obtain ⟨h, hthreshold⟩ := (extractLsb'_eq_append_iff (k := 32)).1 h
  obtain ⟨h, hppr⟩ := (extractLsb'_eq_append_iff (k := 8)).1 h
  obtain ⟨h, hexp⟩ := (extractLsb'_eq_append_iff (k := 4)).1 h
  obtain ⟨h, hedge⟩ := (extractLsb'_eq_append_iff (k := 2)).1 h
  obtain ⟨h, hdebounce⟩ := (extractLsb'_eq_append_iff (k := 2)).1 h
  obtain ⟨-, hinv⟩ := (extractLsb'_eq_append_iff (k := 1)).1 h
  exact ⟨hedge, hdebounce, hppr, hexp, getLsbD_of_field hinv, hthreshold⟩

theorem argFailsafe_fields {enabled : Bool} {edge : EdgeSelection} {point : Byte}
    (h : w.extractLsb' 0 52 = argFailsafe enabled edge point) :
    w.getLsbD 9 = enabled ∧ w.getLsbD 8 = edgeSelectionBit edge ∧ w.extractLsb' 0 8 = point := by
  obtain ⟨h, hpoint⟩ := (extractLsb'_eq_append_iff (k := 8)).1 h
  obtain ⟨h, hedge⟩ := (extractLsb'_eq_append_iff (k := 1)).1 h
  obtain ⟨-, henabled⟩ := (extractLsb'_eq_append_iff (k := 1)).1 h
  exact ⟨getLsbD_of_field henabled, getLsbD_of_field hedge, hpoint⟩

theorem argFlags_fields {sync inverted : Bool} (h : w.extractLsb' 0 52 = argFlags sync inverted) :
    w.getLsbD 0 = sync ∧ w.getLsbD 1 = inverted := by
  obtain ⟨h, hsync⟩ := (extractLsb'_eq_append_iff (k := 1)).1 h
  obtain ⟨-, hinverted⟩ := (extractLsb'_eq_append_iff (k := 1)).1 h
  exact ⟨getLsbD_of_field hsync, getLsbD_of_field hinverted⟩

end Fields

@[simp] theorem edgeSelectionOfBit_bit (edge : EdgeSelection) : edgeSelectionOfBit (edgeSelectionBit edge) = edge := by
  cases edge <;> rfl

@[simp] theorem edgeSelectionBit_ofBit (b : Bool) : edgeSelectionBit (edgeSelectionOfBit b) = b := by
  cases b <;> rfl

theorem argField_assemble (op : Opcode) (ch : Channel) (arg : BitVec 52) :
    (assemble op ch arg).extractLsb' 0 52 = arg :=
  BitVec.extractLsb'_append_eq_right

/-- No operand bit is lost: the fields of the encoded word are the operands it was assembled from. -/
theorem operands_encode (i : Instr) : i.opcode.operands (encode i) = i := by
  cases i with
  | enableTach ch edge debounce ppr exp inv threshold =>
    obtain ⟨hedge, hdebounce, hppr, hexp, hinv, hthreshold⟩ :=
      argTach_fields (argField_assemble .enableTach ch (argTach edge debounce ppr exp inv threshold))
    simp only [Instr.opcode, Opcode.operands, encode, chField_assemble, hedge, hdebounce, hppr, hexp, hinv, hthreshold]
  | cfgFailsafe ch enabled edge point =>
    obtain ⟨henabled, hedge, hpoint⟩ :=
      argFailsafe_fields (argField_assemble .cfgFailsafe ch (argFailsafe enabled edge point))
    simp only [Instr.opcode, Opcode.operands, encode, chField_assemble, henabled, hedge, hpoint, edgeSelectionOfBit_bit]
  | cfgFlags ch sync inverted =>
    obtain ⟨hsync, hinverted⟩ := argFlags_fields (argField_assemble .cfgFlags ch (argFlags sync inverted))
    simp only [Instr.opcode, Opcode.operands, encode, chField_assemble, hsync, hinverted]
  | _ =>
    simp only [Instr.opcode, Opcode.operands, encode, chField_assemble, argWord_fields (argField_assemble _ _ _),
      argLevel_fields (argField_assemble _ _ _)]

/-! ### A word assembled again from its own fields -/

/-- `x` is the field of `w` at `start`, with the bits outside `mask` cleared. -/
def MaskedField (w : CommandWord) (start : Nat) {len : Nat} (mask x : BitVec len) : Prop :=
  x = w.extractLsb' start len &&& mask

section Masked

variable (w : CommandWord) (start len : Nat)

theorem MaskedField.kept : MaskedField w start (BitVec.allOnes len) (w.extractLsb' start len) :=
  BitVec.and_allOnes.symm

theorem MaskedField.cleared : MaskedField w start 0#len 0#len :=
  BitVec.and_zero.symm

theorem MaskedField.keptBit : MaskedField w start (BitVec.allOnes 1) (BitVec.ofBool (w.getLsbD start)) := by
  rw [ofBool_getLsbD]
  exact .kept w start 1

variable {w start}

theorem MaskedField.append {m k : Nat} {hiMask hi : BitVec m} {loMask lo : BitVec k}
    (hhi : MaskedField w (start + k) hiMask hi) (hlo : MaskedField w start loMask lo) :
    MaskedField w start (hiMask ++ loMask) (hi ++ lo) := by
  unfold MaskedField at hhi hlo ⊢
  rw [hhi, hlo, ← BitVec.and_append, BitVec.extractLsb'_append_extractLsb'_eq_extractLsb' rfl]

/-! The operands of a word put into `ARG` again are its `ARG` with the unused bits cleared. -/

theorem argWord_masked : MaskedField w 0 (0#20 ++ BitVec.allOnes 32) (argWord (w.extractLsb' 0 32)) :=
  .append (.cleared w _ 20) (.kept w 0 32)

theorem argLevel_masked : MaskedField w 0 (0#44 ++ BitVec.allOnes 8) (argLevel (w.extractLsb' 0 8)) :=
  .append (.cleared w _ 44) (.kept w 0 8)

theorem argTach_masked :
    MaskedField w 0 (0#3 ++ BitVec.allOnes 1 ++ BitVec.allOnes 2 ++ BitVec.allOnes 2 ++ BitVec.allOnes 4 ++
        BitVec.allOnes 8 ++ BitVec.allOnes 32)
      (argTach (w.extractLsb' 44 2) (w.extractLsb' 46 2) (w.extractLsb' 32 8) (w.extractLsb' 40 4) (w.getLsbD 48)
        (w.extractLsb' 0 32)) :=
  .append (.append (.append (.append (.append (.append (.cleared w _ 3) (.keptBit w 48)) (.kept w 46 2))
    (.kept w 44 2)) (.kept w 40 4)) (.kept w 32 8)) (.kept w 0 32)

theorem argFailsafe_masked :
    MaskedField w 0 (0#42 ++ BitVec.allOnes 1 ++ BitVec.allOnes 1 ++ BitVec.allOnes 8)
      (argFailsafe (w.getLsbD 9) (edgeSelectionOfBit (w.getLsbD 8)) (w.extractLsb' 0 8)) := by
  rw [argFailsafe, edgeSelectionBit_ofBit]
  exact .append (.append (.append (.cleared w _ 42) (.keptBit w 9)) (.keptBit w 8)) (.kept w 0 8)

theorem argFlags_masked :
    MaskedField w 0 (0#50 ++ BitVec.allOnes 1 ++ BitVec.allOnes 1) (argFlags (w.getLsbD 0) (w.getLsbD 1)) :=
  .append (.append (.cleared w _ 50) (.keptBit w 1)) (.keptBit w 0)

theorem opcode_masked {op : Opcode} (hop : op.code = opcField w) : MaskedField w 56 (BitVec.allOnes 8) op.code := by
  rw [hop]
  exact .kept w 56 8

theorem chField_masked : MaskedField w 52 (BitVec.allOnes 4) (BitVec.ofFin (w := 4) (chField w)) :=
  .kept w 52 4

/-- Three masked fields assemble to the word under the three masks side by side (rule R40). -/
theorem assemble_masked {op : Opcode} {ch : Channel} {chMask : BitVec 4} {arg argMask : BitVec 52}
    (hop : op.code = opcField w) (hch : MaskedField w 52 chMask (BitVec.ofFin (w := 4) ch))
    (harg : MaskedField w 0 argMask arg) (hmask : BitVec.allOnes 8 ++ chMask ++ argMask = ~~~op.mustBeZero) :
    assemble op ch arg = w &&& ~~~op.mustBeZero := by
  have hword : MaskedField w 0 (BitVec.allOnes 8 ++ chMask ++ argMask) (assemble op ch arg) :=
    .append (.append (opcode_masked hop) hch) harg
  rw [MaskedField, BitVec.extractLsb'_eq_self] at hword
  rw [hword, hmask]

end Masked

/-- Encoding the operands of a word keeps every bit of it but the must-be-0 bits (rules R43, R44). -/
theorem encode_operands {w : CommandWord} {op : Opcode} (hop : op.code = opcField w) :
    encode (op.operands w) = w &&& ~~~op.mustBeZero := by
  have hnone : MaskedField w 0 0#52 0#52 := .cleared w 0 52
  cases op with
  | resolve => exact assemble_masked hop (.cleared w 52 4) argWord_masked (by decide)
  | enablePwm => exact assemble_masked hop chField_masked argWord_masked (by decide)
  | setDuty => exact assemble_masked hop chField_masked argWord_masked (by decide)
  | setDutyFast => exact assemble_masked hop chField_masked argWord_masked (by decide)
  | getDuty => exact assemble_masked hop chField_masked hnone (by decide)
  | enableTach => exact assemble_masked hop chField_masked argTach_masked (by decide)
  | getRpm => exact assemble_masked hop chField_masked hnone (by decide)
  | getMaxState => exact assemble_masked hop chField_masked hnone (by decide)
  | getCurState => exact assemble_masked hop chField_masked hnone (by decide)
  | setCurState => exact assemble_masked hop chField_masked argWord_masked (by decide)
  | cfgFailsafe => exact assemble_masked hop chField_masked argFailsafe_masked (by decide)
  | cfgFlags => exact assemble_masked hop chField_masked argFlags_masked (by decide)
  | cfgCoolClear => exact assemble_masked hop chField_masked hnone (by decide)
  | cfgCoolLevel => exact assemble_masked hop chField_masked argLevel_masked (by decide)

/-! ### Decoding -/

theorem opcode_operands (op : Opcode) (w : CommandWord) : (op.operands w).opcode = op := by
  cases op <;> rfl

theorem ofCode_eq_some_iff {c : BitVec 8} {op : Opcode} : Opcode.ofCode c = some op ↔ op.code = c :=
  ⟨code_of_ofCode, fun h => h ▸ ofCode_code op⟩

/-- A word decodes to a command exactly when it carries its operation code, has no must-be-0 bit set and has its operands
(rules R44, R49). -/
theorem decode_eq_ok_iff {w : CommandWord} {i : Instr} :
    decode w = .ok i ↔
      i.opcode.code = opcField w ∧ w &&& i.opcode.mustBeZero = 0#64 ∧ i.opcode.operands w = i := by
  constructor
  · intro h
    unfold decode at h
    split at h
    · cases h
    · next op hop =>
      split at h
      · next hzero =>
        obtain rfl := Except.ok.inj h
        rw [opcode_operands]
        exact ⟨code_of_ofCode hop, hzero, rfl⟩
      · cases h
  · rintro ⟨hcode, hzero, hoperands⟩
    simp only [decode, ofCode_eq_some_iff.2 hcode, if_pos hzero, hoperands]

theorem opcField_encode (i : Instr) : opcField (encode i) = i.opcode.code := by
  cases i <;> exact opcField_assemble _ _ _

/-- The encoder leaves the must-be-0 bits 0: encoding its own operands again clears them. -/
theorem encode_and_mustBeZero (i : Instr) : encode i &&& i.opcode.mustBeZero = 0#64 := by
  have hcleared : encode i = encode i &&& ~~~i.opcode.mustBeZero := by
    have h := encode_operands (opcField_encode i).symm
    rwa [operands_encode] at h
  rw [hcleared, BitVec.and_assoc, BitVec.not_and_self]
  exact BitVec.and_zero

/-- Settles O1: the encoded word carries the operation code, no must-be-0 bit and every operand. -/
theorem decodeOfEncodeIsTheCommand : Obligations.DecodeOfEncodeIsTheCommand := fun i =>
  decode_eq_ok_iff.2 ⟨(opcField_encode i).symm, encode_and_mustBeZero i, operands_encode i⟩

theorem and_not_eq_self {w m : CommandWord} (h : w &&& m = 0#64) : w &&& ~~~m = w := by
  ext i hi
  have hbit := congrArg (·[i]) h
  cases hw : w[i] with
  | false => simp [hw]
  | true => simpa [hw] using hbit

/-- Settles O2: encoding the operands of `w` clears its must-be-0 bits, and a legal spelling has none set. -/
theorem encodeOfDecodeIsTheWord : Obligations.EncodeOfDecodeIsTheWord := by
  intro w i h
  obtain ⟨hcode, hzero, hoperands⟩ := decode_eq_ok_iff.1 h
  calc encode i
      = w &&& ~~~i.opcode.mustBeZero := by rw [← encode_operands hcode, hoperands]
    _ = w := and_not_eq_self hzero

theorem decode_of_encode_eq {w : CommandWord} {i : Instr} (h : encode i = w) : decode w = .ok i :=
  h ▸ decodeOfEncodeIsTheCommand i

/-- Settles O5: each word is the encoding of its command. -/
theorem workedEncodingsDecode : Obligations.WorkedEncodingsDecode :=
  ⟨decode_of_encode_eq (by decide), decode_of_encode_eq (by decide), decode_of_encode_eq (by decide),
    decode_of_encode_eq (by decide), decode_of_encode_eq (by decide), decode_of_encode_eq (by decide),
    decode_of_encode_eq (by decide), decode_of_encode_eq (by decide)⟩

/-! ### The opcode table (rule R44) -/

/-- A mask and a pattern that are split at `OPC` test `OPC` and the rest of the word apart. -/
theorem and_append_eq_iff {w : CommandWord} {hiMask hi : BitVec 8} {loMask lo : BitVec 56} :
    w &&& (hiMask ++ loMask) = hi ++ lo ↔ opcField w &&& hiMask = hi ∧ w.extractLsb' 0 56 &&& loMask = lo := by
  have hsplit : w = opcField w ++ w.extractLsb' 0 56 :=
    (BitVec.extractLsb'_append_extractLsb' (w := 8) (len := 56)).symm
  rw [← append_eq_append_iff, ← BitVec.and_append, ← hsplit]

/-- No bit of `OPC` is a must-be-0 bit (rule R44). -/
theorem mustBeZero_eq (op : Opcode) : op.mustBeZero = 0#8 ++ op.mustBeZero.extractLsb' 0 56 := by
  cases op <;> decide

theorem and_mustBeZero_eq_zero_iff (w : CommandWord) (op : Opcode) :
    w &&& op.mustBeZero = 0#64 ↔ w.extractLsb' 0 56 &&& op.mustBeZero.extractLsb' 0 56 = 0#56 := by
  have h : w &&& (0#8 ++ op.mustBeZero.extractLsb' 0 56) = 0#8 ++ 0#56 ↔ _ := and_append_eq_iff
  rw [← mustBeZero_eq] at h
  simpa using h

theorem exists_row (op : Opcode) : ∃ row ∈ opcodeTable, row.op = op := by
  cases op <;> decide

/-- A row's mask is `OPC` and the must-be-0 bits of its operation code; its pattern is the operation code alone. -/
theorem mask_pattern_of_row : ∀ row ∈ opcodeTable,
    row.mask = BitVec.allOnes 8 ++ row.op.mustBeZero.extractLsb' 0 56 ∧ row.pattern = row.op.code ++ 0#56 := by
  decide

theorem matchesWord_iff {row : TableRow} (h : row ∈ opcodeTable) (w : CommandWord) :
    row.matchesWord w = true ↔ row.op.code = opcField w ∧ w &&& row.op.mustBeZero = 0#64 := by
  obtain ⟨hmask, hpattern⟩ := mask_pattern_of_row row h
  rw [TableRow.matchesWord, beq_iff_eq, hmask, hpattern, and_append_eq_iff, BitVec.and_allOnes,
    and_mustBeZero_eq_zero_iff, eq_comm (a := opcField w)]

/-- Settles O3: both sides say that the word carries the row's operation code and has no must-be-0 bit set. -/
theorem decodesExactlyTheTableRows : Obligations.DecodesExactlyTheTableRows := by
  refine ⟨fun row hrow w => ?_, fun w i _ => exists_row i.opcode⟩
  rw [matchesWord_iff hrow]
  constructor
  · rintro ⟨hcode, hzero⟩
    refine ⟨row.op.operands w, decode_eq_ok_iff.2 ?_, opcode_operands row.op w⟩
    rw [opcode_operands]
    exact ⟨hcode, hzero, rfl⟩
  · rintro ⟨i, hdecode, hop⟩
    obtain ⟨hcode, hzero, -⟩ := decode_eq_ok_iff.1 hdecode
    rw [← hop]
    exact ⟨hcode, hzero⟩

theorem code_injective : Function.Injective Opcode.code := fun op₁ op₂ h =>
  Option.some.inj ((ofCode_code op₁).symm.trans (h ▸ ofCode_code op₂))

theorem row_eq_of_op_eq : ∀ row₁ ∈ opcodeTable, ∀ row₂ ∈ opcodeTable, row₁.op = row₂.op → row₁ = row₂ := by
  decide

/-- Settles O4: both rows have the word's operation code, and each operation code has one row. -/
theorem tableRowsAreDisjoint : Obligations.TableRowsAreDisjoint := by
  intro w row₁ hrow₁ row₂ hrow₂ hmatch₁ hmatch₂
  obtain ⟨hcode₁, -⟩ := (matchesWord_iff hrow₁ w).1 hmatch₁
  obtain ⟨hcode₂, -⟩ := (matchesWord_iff hrow₂ w).1 hmatch₂
  exact row_eq_of_op_eq row₁ hrow₁ row₂ hrow₂ (code_injective (hcode₁.trans hcode₂.symm))

end Sys2Proof
end

section
/-! PROOF. Completion of a command word, by what a command can do (`exec_cases`), and the disable path: a duty of 0 runs
`disableStep` and commits the stored duty alone, by either duty command. -/

namespace Sys2Proof.Machine

/-! ### One response, at most four accesses -/

@[simp] theorem commitOf_inputs (i : Instr) (s : State) : (commitOf i s).inputs = s.inputs := by
  rw [commitOf_eq]

/-- From `s` to `t` one response was returned and at most four accesses were issued; the parameters and the host's further
inputs are as before. -/
def RespondsOnce (s t : State) : Prop :=
  ∃ r l, Returns s t r ∧ Issues s t l ∧ l.length ≤ 4 ∧ KeepsSurroundings s t

theorem respondsOnce_raise (s : State) (st : Status) : RespondsOnce s (s.raise st) :=
  ⟨_, [], rfl, by simp [Issues], by simp, rfl, rfl⟩

/-- A state that the accesses led to, with one response more and its trace and surroundings kept. -/
theorem OnlyAccesses.respondsOnce {s u t : State} {l : List PortAccess} {r : ResponseWord} (h : OnlyAccesses s u l)
    (hl : l.length ≤ 4) (hreturns : Returns u t r) (htrace : t.trace = u.trace) (hkeeps : KeepsSurroundings u t) :
    RespondsOnce s t := by
  obtain ⟨-, ⟨hparams, hinputs⟩, hresponses, hissues⟩ := h
  obtain ⟨hparams', hinputs'⟩ := hkeeps
  refine ⟨r, l, ?_, htrace.trans hissues, hl, hparams'.trans hparams, hinputs'.trans hinputs⟩
  rw [Returns, hreturns, hresponses]

theorem exec_respondsOnce {i : Instr} {s t : State} (h : exec i s = .next t) : RespondsOnce s t := by
  cases exec_cases h with
  | turnedAway st hst ha => exact respondsOnce_raise s st
  | busFault u l ha hacc =>
    obtain ⟨haccesses, hlength, -⟩ := hacc
    exact haccesses.respondsOnce hlength (State.raise_responses u .busFault) rfl ⟨rfl, rfl⟩
  | completed u l aux val ha hacc =>
    obtain ⟨haccesses, hlength, -⟩ := hacc
    exact haccesses.respondsOnce hlength (r := responseWord .ok aux val) (by simp [Returns]) (by simp)
      ⟨by simp, by simp⟩

/-- A command word is answered, whether it spells a command or not (rule R42). -/
theorem step_answers {s : State} {w : CommandWord} {rest : List HostInput} (h : s.inputs = .command w :: rest) :
    ∃ t, step s = .next t ∧ RespondsOnce s.dropInput t := by
  cases hd : decode w with
  | error e => exact ⟨_, step_of_illegalWord h hd, respondsOnce_raise s.dropInput .illegalCommand⟩
  | ok i =>
    obtain ⟨t, hexec, -⟩ := exec_outcome i s.dropInput
    exact ⟨t, (step_of_command h hd).trans hexec, exec_respondsOnce hexec⟩

/-- Settles O8: taking the input changes neither the responses, the trace nor the parameters, and the rest is
`step_answers`. -/
theorem everyCommandReturnsOneResponse : Obligations.EveryCommandReturnsOneResponse := by
  intro s w rest h
  obtain ⟨t, hstep, r, l, hreturns, hissues, hlength, hparams, hinputs⟩ := step_answers h
  refine ⟨t, r, l, hstep, hreturns, hissues, hlength, hparams, ?_⟩
  rw [hinputs, State.dropInput_inputs, h, List.tail_cons]

/-! ### Duty 0 -/

/-- The stored duty of a channel set, and no other field. -/
def State.commitDuty (s : State) (ch : Channel) (d : Byte) : State :=
  s.setPwm ch { s.pwm[ch] with dutyFallingPoint := d }

/-- With 0 both duty commands are the disable step and the commit of the duty alone (rules R75, R76, R77). -/
theorem exec_duty_zero {ch : Channel} {i : Instr}
    (hi : i = .setDuty ch 0#32 ∨ i = disablePwm ch ∨ i = .setDutyFast ch 0#32) (s : State) :
    exec i s = .next ((disableStep ch s).finish fun t => t.commitDuty ch 0#8) := by
  rcases hi with rfl | rfl | rfl <;> rfl

/-- Settles O35: without a fault the disable step completes, and `AccessRun.finish` commits the duty 0. -/
theorem dutyZeroDisablesTheChannel : Obligations.DutyZeroDisablesTheChannel := by
  intro ch s i hclean hi
  obtain ⟨u, hrun, ⟨⟨hpwm, htach, hcool⟩, hsurroundings, hresponses, hissues⟩, hregs⟩ := disableStep_ok hclean ch
  have hexec : exec i s = .next ((u.commitDuty ch 0#8).complete 0#28 0#32) := by
    rw [exec_duty_zero hi, hrun, AccessRun.finish_completed rfl]
  refine ⟨_, s.readValue ch .ctrl, hexec, hissues, fun hplain => ?_, ?_, hregs, htach, hcool, hsurroundings, ?_⟩
  · simp [State.readValue, hplain]
  · simp [State.commitDuty, hpwm]
  · exact congrArg (· ++ [responseWord .ok 0#28 0#32]) hresponses

end Sys2Proof.Machine
end

section
/-! PROOF. The divider search of `Resolve`: `resolve_cases` says once what it returns, and `achievedAt_lt_iff` reads a hit as
a lower bound on `fine`, from which the closed form and the exhaustion condition of rule R65 follow. -/

namespace Sys2Proof.Machine

/-! ### What the search returns -/

/-- The candidate undercuts the target, and no candidate before it in scan order does (rule R60). -/
def IsFirstHit (base target c f : Nat) : Prop :=
  c < 16 ∧ f < 256 ∧ achievedAt base c f < target ∧
    ∀ c' f', c' < 16 → f' < 256 → (c' < c ∨ c' = c ∧ f' < f) → target ≤ achievedAt base c' f'

/-- No candidate of the search space undercuts the target (rule R62). -/
def NoHit (base target : Nat) : Prop := ∀ c f, c < 16 → f < 256 → target ≤ achievedAt base c f

theorem IsFirstHit.not_noHit {base target c f : Nat} (h : IsFirstHit base target c f) : ¬ NoHit base target := by
  obtain ⟨hc, hf, hhit, -⟩ := h
  exact fun hnone => absurd (hnone c f hc hf) (by omega)

theorem IsFirstHit.unique {base target c f c' f' : Nat} (h : IsFirstHit base target c f)
    (h' : IsFirstHit base target c' f') : c = c' ∧ f = f' := by
  obtain ⟨hc, hf, hhit, hfirst⟩ := h
  obtain ⟨hc', hf', hhit', hfirst'⟩ := h'
  have hnot : ¬ (c' < c ∨ c' = c ∧ f' < f) := fun hlt => absurd (hfirst c' f' hc' hf' hlt) (by omega)
  have hnot' : ¬ (c < c' ∨ c = c' ∧ f < f') := fun hlt => absurd (hfirst' c f hc hf hlt) (by omega)
  omega

section Resolve

variable {clk target : Word}

theorem resolve_of_firstHit_some {c f : Nat} (h : firstHit (resolverBase clk) target.toNat = some (c, f)) :
    (resolve clk target).coarse.toNat = c ∧ (resolve clk target).fine.toNat = f ∧
      (resolve clk target).achieved.toNat = achievedAt (resolverBase clk) c f ∧
      (resolve clk target).exhausted = false := by
  obtain ⟨hc, hf, -⟩ := firstHit_some h
  rw [resolve, h]
  exact ⟨Nat.mod_eq_of_lt hc, Nat.mod_eq_of_lt hf, Nat.mod_eq_of_lt (achievedAt_lt clk c f), rfl⟩

theorem resolve_of_firstHit_none (h : firstHit (resolverBase clk) target.toNat = none) :
    (resolve clk target).coarse = 15#4 ∧ (resolve clk target).fine = 255#8 ∧
      (resolve clk target).achieved.toNat = achievedAt (resolverBase clk) 15 255 ∧
      (resolve clk target).exhausted = true := by
  rw [resolve, h]
  exact ⟨rfl, rfl, Nat.mod_eq_of_lt (achievedAt_lt clk 15 255), rfl⟩

/-- The two ends of the search (rules R60, R62). -/
theorem resolve_cases (clk target : Word) :
    ((resolve clk target).exhausted = false ∧
      IsFirstHit (resolverBase clk) target.toNat (resolve clk target).coarse.toNat (resolve clk target).fine.toNat) ∨
    ((resolve clk target).exhausted = true ∧ (resolve clk target).coarse = 15#4 ∧ (resolve clk target).fine = 255#8 ∧
      NoHit (resolverBase clk) target.toNat) := by
  cases h : firstHit (resolverBase clk) target.toNat with
  | none =>
    obtain ⟨hc, hf, -, hex⟩ := resolve_of_firstHit_none h
    exact .inr ⟨hex, hc, hf, firstHit_none h⟩
  | some p =>
    obtain ⟨hc, hf, -, hex⟩ := resolve_of_firstHit_some h
    rw [hc, hf]
    exact .inl ⟨hex, firstHit_some h⟩

/-- On a hit and on exhaustion alike `achieved` is the frequency of the pair returned, not reduced (rule R61). -/
theorem resolve_achieved (clk target : Word) :
    (resolve clk target).achieved.toNat =
      achievedAt (resolverBase clk) (resolve clk target).coarse.toNat (resolve clk target).fine.toNat := by
  cases h : firstHit (resolverBase clk) target.toNat with
  | none =>
    obtain ⟨hc, hf, hachieved, -⟩ := resolve_of_firstHit_none h
    rw [hachieved, hc, hf]
    rfl
  | some p =>
    obtain ⟨hc, hf, hachieved, -⟩ := resolve_of_firstHit_some h
    rw [hachieved, hc, hf]

theorem resolve_of_isFirstHit {c f : Nat} (h : IsFirstHit (resolverBase clk) target.toNat c f) :
    (resolve clk target).coarse.toNat = c ∧ (resolve clk target).fine.toNat = f ∧
      (resolve clk target).exhausted = false := by
  rcases resolve_cases clk target with ⟨hex, hfirst⟩ | ⟨-, -, -, hnone⟩
  · obtain ⟨hc, hf⟩ := hfirst.unique h
    exact ⟨hc, hf, hex⟩
  · exact absurd hnone h.not_noHit

theorem resolve_of_noHit (h : NoHit (resolverBase clk) target.toNat) :
    (resolve clk target).coarse = 15#4 ∧ (resolve clk target).fine = 255#8 ∧
      (resolve clk target).exhausted = true := by
  rcases resolve_cases clk target with ⟨-, hfirst⟩ | ⟨hex, hc, hf, -⟩
  · exact absurd h hfirst.not_noHit
  · exact ⟨hc, hf, hex⟩

theorem isFirstHit_of_resolve (h : (resolve clk target).exhausted = false) :
    IsFirstHit (resolverBase clk) target.toNat (resolve clk target).coarse.toNat (resolve clk target).fine.toNat := by
  rcases resolve_cases clk target with ⟨-, hfirst⟩ | ⟨hex, -⟩
  · exact hfirst
  · simp [h] at hex

theorem exhausted_iff_noHit : (resolve clk target).exhausted = true ↔ NoHit (resolverBase clk) target.toNat := by
  rcases resolve_cases clk target with ⟨hex, hfirst⟩ | ⟨hex, -, -, hnone⟩
  · simp [hex, hfirst.not_noHit]
  · simp [hex, hnone]

end Resolve

/-- Settles O22: the two ends of the search, with the achieved frequency of the pair returned. -/
theorem resolveIsTheFirstHitOrTheLastCandidate : Obligations.ResolveIsTheFirstHitOrTheLastCandidate := by
  intro clk target
  have hachieved := resolve_achieved clk target
  refine ⟨fun hex => ?_, fun hex => ?_⟩
  · obtain ⟨-, -, hhit, hfirst⟩ := isFirstHit_of_resolve hex
    exact ⟨hachieved, by rwa [hachieved], hfirst⟩
  · have hnone := exhausted_iff_noHit.1 hex
    obtain ⟨hc, hf, -⟩ := resolve_of_noHit hnone
    rw [hc, hf] at hachieved
    exact ⟨hc, hf, hachieved, hnone⟩

/-! ### The closed form (rule R65) -/

/-- Undercutting a nonzero target bounds `fine` from below: both sides say `base < target · 2^c · (f + 1)`. -/
theorem achievedAt_lt_iff {base target c f : Nat} (ht : target ≠ 0) :
    achievedAt base c f < target ↔ base / (target * 2 ^ c) ≤ f := by
  have hpos : 0 < target * 2 ^ c := by positivity
  calc achievedAt base c f < target
      ↔ base < target * (2 ^ c * (f + 1)) := Nat.div_lt_iff_lt_mul (by positivity)
    _ ↔ base < (f + 1) * (target * 2 ^ c) := by rw [← mul_assoc, mul_comm (f + 1)]
    _ ↔ base / (target * 2 ^ c) < f + 1 := (Nat.div_lt_iff_lt_mul hpos).symm
    _ ↔ base / (target * 2 ^ c) ≤ f := Nat.lt_succ_iff

/-- The least `coarse` whose quotient fits in `fine` gives the first hit. -/
theorem isFirstHit_of_least {base target c : Nat} (hc : c < 16) (ht : target ≠ 0)
    (hfits : base / (target * 2 ^ c) ≤ 255) (hleast : ∀ c' < c, 255 < base / (target * 2 ^ c')) :
    IsFirstHit base target c (base / (target * 2 ^ c)) := by
  refine ⟨hc, by omega, (achievedAt_lt_iff ht).2 le_rfl, fun c' f' _ hf' hbefore => ?_⟩
  rw [← not_lt, achievedAt_lt_iff ht]
  rcases hbefore with hlt | ⟨rfl, hlt⟩
  · have := hleast c' hlt
    omega
  · omega

theorem noHit_iff_no_coarse_fits {base target : Nat} :
    NoHit base target ↔ target = 0 ∨ ∀ c < 16, 255 < base / (target * 2 ^ c) := by
  rcases eq_or_ne target 0 with rfl | ht
  · simp [NoHit]
  · simp only [NoHit, ht, false_or, ← not_lt, achievedAt_lt_iff ht]
    refine ⟨fun h c hc => ?_, fun h c f hc hf => ?_⟩
    · have := h c 255 hc (by decide)
      omega
    · have := h c hc
      omega

/-- Settles O23: the pair of the closed form is a first hit, and without one no `coarse` fits. -/
theorem resolveHasTheClosedForm : Obligations.ResolveHasTheClosedForm := by
  intro clk target
  have hachieved := resolve_achieved clk target
  refine ⟨fun c hc ht hfits hleast => ?_, fun hnone => ?_⟩
  · obtain ⟨hcoarse, hfine, hex⟩ :=
      resolve_of_isFirstHit (isFirstHit_of_least (base := resolverBase clk) hc ht hfits hleast)
    rw [hcoarse, hfine] at hachieved
    exact ⟨hcoarse, hfine, hachieved, hex⟩
  · obtain ⟨hcoarse, hfine, hex⟩ := resolve_of_noHit (clk := clk) (noHit_iff_no_coarse_fits.2 hnone)
    rw [hcoarse, hfine] at hachieved
    exact ⟨congrArg BitVec.toNat hcoarse, congrArg BitVec.toNat hfine, hachieved, hex⟩

/-! ### Exhaustion (rules R65, R148) -/

/-- The largest `coarse` has the smallest quotient, so it decides whether any fits. -/
theorem no_coarse_fits_iff {base target : Nat} (ht : target ≠ 0) :
    (∀ c < 16, 255 < base / (target * 2 ^ c)) ↔ target * 2 ^ 23 ≤ base := by
  have hlast : 255 < base / (target * 2 ^ 15) ↔ target * 2 ^ 23 ≤ base := by
    rw [← Nat.succ_le_iff, Nat.le_div_iff_mul_le (by positivity)]
    omega
  rw [← hlast]
  refine ⟨fun h => h 15 (by decide), fun h c hc => h.trans_le ?_⟩
  have hpow : 2 ^ c ≤ 2 ^ 15 := Nat.pow_le_pow_right (by decide) (by omega)
  exact Nat.div_le_div_left (Nat.mul_le_mul_left target hpow) (by positivity)

theorem noHit_iff {base target : Nat} : NoHit base target ↔ target = 0 ∨ target * 2 ^ 23 ≤ base := by
  rw [noHit_iff_no_coarse_fits]
  exact or_congr_right' no_coarse_fits_iff

/-- Settles O24: below a clock of `2^31` the base is below `2^23`, so a nonzero target is always undercut. -/
theorem exhaustionCondition : Obligations.ExhaustionCondition := by
  intro clk target
  have hiff : (resolve clk target).exhausted = true ↔ target.toNat = 0 ∨ target.toNat * 2 ^ 23 ≤ clk.toNat / 256 :=
    exhausted_iff_noHit.trans noHit_iff
  refine ⟨hiff, fun hclk => hiff.trans ?_⟩
  omega

/-! ### The smallest divisor -/

/-- Against a hit `(c', f')` with a smaller divisor: an earlier `coarse` has no hit, and for a later one, `c' = c + k`, the
pair `(c, 2^k · (f' + 1) - 1)` has the same divisor and comes before `(c, f)` in the scan. -/
theorem IsFirstHit.divisor_le {base target c f c' f' : Nat} (h : IsFirstHit base target c f) (hc' : c' < 16)
    (hf' : f' < 256) (hhit : achievedAt base c' f' < target) : 2 ^ c * (f + 1) ≤ 2 ^ c' * (f' + 1) := by
  obtain ⟨hc, hf, -, hfirst⟩ := h
  by_contra! hsmaller
  rcases Nat.lt_or_ge c' c with hlt | hge
  · have := hfirst c' f' hc' hf' (.inl hlt)
    omega
  · obtain ⟨k, rfl⟩ := Nat.exists_eq_add_of_le hge
    obtain ⟨g, hg⟩ : ∃ g, 2 ^ k * (f' + 1) = g + 1 := Nat.exists_eq_add_one.2 (by positivity)
    have hdivisor : 2 ^ (c + k) * (f' + 1) = 2 ^ c * (g + 1) := by rw [pow_add, mul_assoc, hg]
    have hbefore : g < f := by
      rw [hdivisor] at hsmaller
      have := Nat.lt_of_mul_lt_mul_left hsmaller
      omega
    have hsame : achievedAt base (c + k) f' = achievedAt base c g := congrArg (base / ·) hdivisor
    have := hfirst c g hc (by omega) (.inr ⟨rfl, hbefore⟩)
    omega

/-- Settles O25: the pair returned is a first hit, and a first hit has the smallest divisor. -/
theorem resolveHitHasTheSmallestDivisor : Obligations.ResolveHitHasTheSmallestDivisor :=
  fun _ _ _ _ hex hc hf hhit => (isFirstHit_of_resolve hex).divisor_le hc hf hhit

/-! ### The command (rule R63) -/

/-- The three fields do not overlap: a field has no bit at or above its width. -/
theorem resolveAux_eq_append (coarse : BitVec 4) (fine : BitVec 8) (exhausted : Bool) :
    resolveAux coarse fine exhausted = 0#15 ++ BitVec.ofBool exhausted ++ coarse ++ fine := by
  apply BitVec.eq_of_getLsbD_eq
  intro i hi
  have hfine : 8 ≤ i → fine.getLsbD i = false := BitVec.getLsbD_of_ge fine i
  have hcoarse : 4 ≤ i - 8 → coarse.getLsbD (i - 8) = false := BitVec.getLsbD_of_ge coarse (i - 8)
  simp only [resolveAux, BitVec.getLsbD_or, BitVec.getLsbD_shiftLeft, BitVec.getLsbD_setWidth, BitVec.getLsbD_append,
    BitVec.getLsbD_ofBool, BitVec.getLsbD_zero]
  grind

/-- Settles O26: the command completes on the state it was given. -/
theorem resolveCommandReturnsTheResolution : Obligations.ResolveCommandReturnsTheResolution := by
  intro target s
  refine ⟨_, rfl, ?_, ⟨rfl, rfl, rfl⟩, ⟨rfl, rfl, rfl, rfl⟩, rfl, rfl⟩
  rw [← resolveAux_eq_append]
  exact State.complete_responses ..

end Sys2Proof.Machine
end

section
/-! PROOF. The words of the Duty Cycle Programmer: the duty word and the control word are their fields side by side, and
each field is read off one after the other. -/

namespace Sys2Proof.Machine

/-- The duty word is `PERIOD`, `FS_POINT`, `RISING` and `FALLING` side by side (rules R19, R70). -/
theorem dutyWord_eq_append (r : PwmChannelConfig) (d : Byte) :
    dutyWord r d =
      255#8 ++ (if r.watchdogFailsafe.enabled then r.watchdogFailsafe.failsafePoint else 0#8) ++ 0#8 ++
        (if d = 255#8 then 0#8 else d) := by
  rw [← BitVec.setWidth_eq (255#8 ++ _ ++ _ ++ _), BitVec.setWidth_append_append_append_eq_shiftLeft_setWidth_or,
    dutyWord]
  by_cases hd : d = 255#8
  · cases r.watchdogFailsafe.enabled <;> simp [hd]
  · cases r.watchdogFailsafe.enabled with
    | false => simp [hd]
    | true =>
      have hswap : ∀ w x y : Word, w ||| x ||| y = w ||| y ||| x := fun w x y => by ac_rfl
      simp [hd, hswap _ (d.setWidth 32)]

/-- The control word is its fields side by side; the enables lie in the 0 between `coarse` and the fail-safe enable
(rules R18, R71). -/
theorem ctrlWord_eq_append (r : PwmChannelConfig) (coarse : BitVec 4) (fine : BitVec 8) :
    ctrlWord r coarse fine =
      0#12 ++ BitVec.ofBool (r.watchdogFailsafe.enabled && decide (r.watchdogFailsafe.edgeSelection = .falling)) ++
        BitVec.ofBool r.watchdogFailsafe.enabled ++ 0#6 ++ coarse ++ fine := by
  rw [← BitVec.setWidth_eq (0#12 ++ _ ++ _ ++ _ ++ _ ++ _)]
  simp only [BitVec.setWidth_append_eq_shiftLeft_setWidth_or, BitVec.shiftLeft_or_distrib, ctrlWord]
  cases r.watchdogFailsafe.enabled with
  | false => simp
  | true =>
    have hlast : ∀ w : Word, w ||| (coarse.setWidth 32 <<< 8 ||| fine.setWidth 32) =
        coarse.setWidth 32 <<< 8 ||| (fine.setWidth 32 ||| w) := fun w => by ac_rfl
    cases r.watchdogFailsafe.edgeSelection <;> simp [BitVec.or_assoc, hlast]

/-- Settles O27: the four fields of `dutyWord_eq_append` one after the other, for a duty of 0 as well. -/
theorem dutyWordFields : Obligations.DutyWordFields := by
  intro r d _
  have h : (dutyWord r d).extractLsb' 0 32 = _ := BitVec.extractLsb'_eq_self.trans (dutyWord_eq_append r d)
  obtain ⟨h, hfalling⟩ := (extractLsb'_eq_append_iff (k := 8)).1 h
  obtain ⟨h, hrising⟩ := (extractLsb'_eq_append_iff (k := 8)).1 h
  obtain ⟨hperiod, hpoint⟩ := (extractLsb'_eq_append_iff (k := 8)).1 h
  exact ⟨hperiod, hpoint, hrising, hfalling⟩

/-- A field of one bit. -/
theorem getLsbD_eq_of_field {w : Word} {i : Nat} {b : Bool} (h : w.extractLsb' i 1 = BitVec.ofBool b) :
    w.getLsbD i = b := by
  rw [BitVec.getLsbD_eq_extractLsb', h]
  cases b <;> rfl

/-- Settles O28: the six fields of `ctrlWord_eq_append` one after the other. -/
theorem controlWordFields : Obligations.ControlWordFields := by
  intro r coarse fine
  have h : (ctrlWord r coarse fine).extractLsb' 0 32 = _ :=
    BitVec.extractLsb'_eq_self.trans (ctrlWord_eq_append r coarse fine)
  obtain ⟨h, hfine⟩ := (extractLsb'_eq_append_iff (k := 8)).1 h
  obtain ⟨h, hcoarse⟩ := (extractLsb'_eq_append_iff (k := 4)).1 h
  obtain ⟨h, hzero⟩ := (extractLsb'_eq_append_iff (k := 6)).1 h
  obtain ⟨h, henabled⟩ := (extractLsb'_eq_append_iff (k := 1)).1 h
  obtain ⟨hunused, hfalling⟩ := (extractLsb'_eq_append_iff (k := 1)).1 h
  exact ⟨hfine, hcoarse, hzero, getLsbD_eq_of_field henabled, getLsbD_eq_of_field hfalling, hunused⟩

end Sys2Proof.Machine
end

section
/-! PROOF. The duty commands at work: `exec_completesWith` says once what a command leaves whose accesses are known to
complete, and the full path, the fast path and the disable step are put into it. -/

namespace Sys2Proof.Machine

/-! ### A command whose accesses complete -/

/-- From `s` to `t` the command `i` ran to its commit: it issued the accesses `l`, left `regs` in the engine's registers,
committed to the store and answered. -/
structure CompletesWith (i : Instr) (s t : State) (l : List PortAccess) (regs : Vector ChannelRegs 16) : Prop where
  runs         : exec i s = .next t
  issues       : Issues s t l
  regs         : t.regs = regs
  store        : KeepsStore (commitOf i s) t
  surroundings : KeepsSurroundings s t
  returns      : Returns s t (answerOf i s)

theorem exec_of_completed {i : Instr} {s : State} (ha : admits i s = true) (hc : (accessesOf i s).completed = true) :
    exec i s = .next ((commitOf i (accessesOf i s).state).respond (answerOf i s)) := by
  obtain ⟨t, hexec, hrun⟩ := exec_run i s
  cases hrun with
  | turnedAway ha' ht => exact absurd ha (by simp [ha'])
  | busFault _ hc' ht => exact absurd hc (by simp [hc'])
  | completed _ _ ht => rw [hexec, ht]

theorem exec_of_refused {i : Instr} {s : State} (ha : admits i s = false) :
    exec i s = .next (s.raise (refusalOf i s)) := by
  obtain ⟨t, hexec, hrun⟩ := exec_run i s
  cases hrun with
  | turnedAway _ ht => rw [hexec, ht]
  | busFault ha' _ ht => exact absurd ha' (by simp [ha])
  | completed ha' _ ht => exact absurd ha' (by simp [ha])

theorem exec_completesWith {i : Instr} {s u : State} {l : List PortAccess} (ha : admits i s = true)
    (hrun : accessesOf i s = { completed := true, state := u }) (hacc : OnlyAccesses s u l) :
    ∃ t, CompletesWith i s t l u.regs := by
  have hexec := exec_of_completed ha (by rw [hrun])
  rw [hrun] at hexec
  obtain ⟨-, hstore⟩ := hacc.storeAlike.afterCommit i
  obtain ⟨-, ⟨hparams, hinputs⟩, hresponses, hissues⟩ := hacc
  refine ⟨_, hexec, ?_, by simp, hstore, ⟨by simp [hparams], by simp [hinputs]⟩, by simp [Returns, hresponses]⟩
  simpa [Issues] using hissues

/-! ### The full path and the disable step -/

/-- A nonzero duty is programmed by the four accesses of the full path, whichever command asks for it (rules R74, R78,
R108). -/
theorem exec_runs_fullPath {i : Instr} {s : State} {ch : Channel} {r : PwmChannelConfig} {d : Byte}
    (ha : admits i s = true) (haccesses : accessesOf i s = programAccesses ch r d s) (hd : d ≠ 0#8)
    (hclean : NoFaultAhead 4 s) :
    let q := resolve s.params.inputClockHz r.targetFrequencyHz
    let cw := ctrlWord r q.coarse q.fine
    ∃ t x, (s.params.plainStorage = true → x = cw) ∧ CompletesWith i s t
      [.write (regOffset ch .duty) (dutyWord r d), .write (regOffset ch .ctrl) cw, .read (regOffset ch .ctrl) x,
        .write (regOffset ch .ctrl) (x ||| enableMask)]
      (s.regs.set ch { s.regs[ch] with duty := dutyWord r d, ctrl := x ||| enableMask }) := by
  intro q cw
  obtain ⟨u, x, hrun, hacc, hregs, hx⟩ := writeWords_ok hclean ch (dutyWord r d) cw
  rw [programAccesses_of_ne_zero hd, hrun] at haccesses
  obtain ⟨t, ht⟩ := exec_completesWith ha haccesses hacc
  exact ⟨t, x, hx, hregs ▸ ht⟩

/-- A duty of 0 is programmed by the disable step alone (rules R75, R78, R108). -/
theorem exec_runs_disableStep {i : Instr} {s : State} {ch : Channel} {r : PwmChannelConfig} {d : Byte}
    (ha : admits i s = true) (haccesses : accessesOf i s = programAccesses ch r d s) (hd : d = 0#8)
    (hclean : NoFaultAhead 2 s) :
    ∃ t x, (s.params.plainStorage = true → x = s.regs[ch].ctrl) ∧ CompletesWith i s t
      [.read (regOffset ch .ctrl) x, .write (regOffset ch .ctrl) (x &&& ~~~enableMask)]
      (s.regs.set ch { s.regs[ch] with ctrl := x &&& ~~~enableMask }) := by
  obtain ⟨u, hrun, hacc, hregs⟩ := disableStep_ok hclean ch
  rw [programAccesses, if_pos hd, hrun] at haccesses
  obtain ⟨t, ht⟩ := exec_completesWith ha haccesses hacc
  exact ⟨t, s.readValue ch .ctrl, fun hplain => by simp [State.readValue, hplain], hregs ▸ ht⟩

theorem dutyInRange_of_le {v : Word} (h : v.toNat ≤ 255) : dutyInRange v = true := decide_eq_true h

/-- A value in `1 .. 255` is in the range of a duty, and its byte is not 0 (rule R76). -/
theorem nonzero_duty_of_range {v : Word} (hpos : 1 ≤ v.toNat) (hle : v.toNat ≤ 255) :
    dutyInRange v = true ∧ v.setWidth 8 ≠ 0#8 :=
  ⟨dutyInRange_of_le hle, setWidth_ne_zero_of_dutyInRange (fun h => by simp [h] at hpos) (dutyInRange_of_le hle)⟩

theorem PwmChannelConfig.programmed_of_ne_zero (r : PwmChannelConfig) (clk : Word) {d : Byte} (hd : d ≠ 0#8) :
    r.programmed clk d = { r.cache (resolve clk r.targetFrequencyHz) with dutyFallingPoint := d } :=
  if_neg hd

/-- Settles O34: the full path for the duty of the operand. -/
theorem setDutyRunsTheFullPath : Obligations.SetDutyRunsTheFullPath := by
  intro ch value s hpos hle hclean
  obtain ⟨hrange, hd⟩ := nonzero_duty_of_range hpos hle
  obtain ⟨t, x, hx, hexec, hissues, hregs, ⟨hpwm, htach, hcool⟩, hsurroundings, hreturns⟩ :=
    exec_runs_fullPath (i := .setDuty ch value) hrange rfl hd hclean
  refine ⟨t, x, hexec, hissues, hx, hpwm.trans ?_, hregs, htach, hcool, hsurroundings, hreturns⟩
  exact congrArg (s.pwm.set ch) (s.pwm[ch].programmed_of_ne_zero _ hd)

/-- Settles O38: the full path for the stored duty and the new target. -/
theorem enablePwmProgramsTheStoredDuty : Obligations.EnablePwmProgramsTheStoredDuty := by
  intro ch freq s hd hclean
  obtain ⟨t, x, hx, hexec, hissues, hregs, ⟨hpwm, htach, hcool⟩, hsurroundings, hreturns⟩ :=
    exec_runs_fullPath (i := .enablePwm ch freq) rfl rfl hd hclean
  exact ⟨t, x, hexec, hissues, hx, hpwm, hregs, htach, hcool, hsurroundings, hreturns⟩

/-- Settles O39: the disable step, and the commit of `ENABLE_PWM` does not look at the duty. -/
theorem enablePwmWithDutyZeroDisables : Obligations.EnablePwmWithDutyZeroDisables := by
  intro ch freq s hd hclean
  obtain ⟨t, x, hx, hexec, hissues, hregs, ⟨hpwm, htach, hcool⟩, hsurroundings, hreturns⟩ :=
    exec_runs_disableStep (i := .enablePwm ch freq) rfl rfl hd hclean
  exact ⟨t, x, hexec, hissues, hx, hpwm, hregs, htach, hcool, hsurroundings, hreturns⟩

/-- The table of a present slot has the level, so `SET_CUR_STATE` is admitted, programs that level and commits it with the
state (rule R108). -/
theorem setCurState_of_level {s : State} {ch : Channel} {state : Word} {d : CoolingDevice} {duty : Byte}
    (hdev : s.cool[ch] = some d) (hlevel : d.levels[state.toNat]? = some duty) :
    admits (.setCurState ch state) s = true ∧
      accessesOf (.setCurState ch state) s = programAccesses ch s.pwm[ch] duty s ∧
      commitOf (.setCurState ch state) s =
        (s.commitProgram ch duty).setCool ch (some { d with currentState := state.toNat }) := by
  refine ⟨by simp [admits, hdev, hlevel], ?_, ?_⟩
  · rw [accessesOf, levelAt_of_present hdev, hlevel, Option.getD_some]
  · rw [commitOf_setCurState_present hdev, hlevel, Option.getD_some]

/-- Settles O53: the full path for the level of the state. -/
theorem setCurStateProgramsTheLevel : Obligations.SetCurStateProgramsTheLevel := by
  intro ch state s d duty hdev hlevel hd hclean
  obtain ⟨ha, haccesses, hcommit⟩ := setCurState_of_level hdev hlevel
  obtain ⟨t, x, hx, hexec, hissues, hregs, ⟨hpwm, htach, hcool⟩, hsurroundings, hreturns⟩ :=
    exec_runs_fullPath ha haccesses hd hclean
  rw [hcommit] at hpwm htach hcool
  refine ⟨t, x, hexec, hissues, hx, hpwm.trans ?_, hcool, hregs, htach, hsurroundings, hreturns⟩
  exact congrArg (s.pwm.set ch) (s.pwm[ch].programmed_of_ne_zero _ hd)

/-- Settles O54: the disable step for the level 0. -/
theorem setCurStateWithLevelZeroDisables : Obligations.SetCurStateWithLevelZeroDisables := by
  intro ch state s d hdev hlevel hclean
  obtain ⟨ha, haccesses, hcommit⟩ := setCurState_of_level hdev hlevel
  obtain ⟨t, x, hx, hexec, hissues, hregs, ⟨hpwm, htach, hcool⟩, hsurroundings, hreturns⟩ :=
    exec_runs_disableStep ha haccesses rfl hclean
  rw [hcommit] at hpwm htach hcool
  exact ⟨t, x, hexec, hissues, hx, hpwm, hcool, hregs, htach, hsurroundings, hreturns⟩

/-! ### Rejection and read-back -/

/-- Settles O36: neither command admits the value, so each raises `OUT_OF_RANGE` on the state it was given. -/
theorem dutyAbove255IsRejected : Obligations.DutyAbove255IsRejected := by
  intro ch value s i hlarge hi
  have hrange : dutyInRange value = false := by simpa [dutyInRange] using hlarge
  have hexec : exec i s = .next (s.raise .outOfRange) := by
    rcases hi with rfl | rfl
    · exact exec_of_refused (i := .setDuty ch value) hrange
    · exact exec_of_refused (i := .setDutyFast ch value) hrange
  exact ⟨_, hexec, rfl, ⟨rfl, rfl, rfl⟩, ⟨rfl, rfl, rfl, rfl⟩, rfl, rfl⟩

theorem responseWord_ok_val (v : Word) : responseWord .ok 0#28 v = 0#32 ++ v := rfl

/-- A duty as the value of a response: 56 zero bits above it (rules R45, R79). -/
theorem responseWord_ok_byte (d : Byte) : responseWord .ok 0#28 (d.setWidth 32) = 0#56 ++ d := by
  have hword : (0#32 ++ d.setWidth 32).toNat = d.toNat := (BitVec.toNat_append _ _).trans (by simp; omega)
  have hbyte : (0#56 ++ d).toNat = d.toNat := (BitVec.toNat_append _ _).trans (by simp)
  exact BitVec.eq_of_toNat_eq (hword.trans hbyte.symm)

/-- Settles O40: the command completes on the state it was given. -/
theorem getDutyReturnsTheStoredDuty : Obligations.GetDutyReturnsTheStoredDuty := by
  intro ch s
  refine ⟨_, rfl, ?_, ⟨rfl, rfl, rfl⟩, ⟨rfl, rfl, rfl, rfl⟩, rfl, rfl⟩
  rw [← responseWord_ok_byte]
  exact State.complete_responses ..

theorem setWidth_setWidth_of_dutyInRange {v : Word} (h : dutyInRange v = true) : (v.setWidth 8).setWidth 32 = v := by
  have hle : v.toNat ≤ 255 := by simpa [dutyInRange] using h
  apply BitVec.eq_of_toNat_eq
  simp only [BitVec.toNat_setWidth]
  omega

/-- Settles O41: both commands commit the low byte of the value, and a value up to 255 is its low byte. -/
theorem dutyRoundTrip : Obligations.DutyRoundTrip := by
  intro ch value s i hle hclean hi
  have hrange := dutyInRange_of_le hle
  obtain ⟨ha, hanswer, hduty⟩ : admits i s = true ∧ answerOf i s = 0#64 ∧
      (commitOf i s).pwm[ch].dutyFallingPoint = value.setWidth 8 := by
    rcases hi with rfl | rfl <;> exact ⟨hrange, rfl, by simp [commitOf]⟩
  have hrun : accessesOf i s = { completed := true, state := (accessesOf i s).state } :=
    congrArg (AccessRun.mk · _) (accessesOf_completes hclean i)
  obtain ⟨l, hacc, -⟩ := accessesOf_spec i s
  obtain ⟨t, hexec, -, -, ⟨hpwm, -⟩, -, hreturns⟩ := exec_completesWith ha hrun hacc
  obtain ⟨u, hget, hread, -⟩ := getDutyReturnsTheStoredDuty ch t
  rw [hpwm, hduty, ← responseWord_ok_byte, setWidth_setWidth_of_dutyInRange hrange, responseWord_ok_val] at hread
  exact ⟨t, u, hexec, hanswer ▸ hreturns, hget, hread⟩

/-! ### The fast path -/

/-- The masked write of a falling byte keeps the upper 24 bits of the word read (rules R29, R77). -/
theorem fallingByte_update (y : Word) {v : Word} (h : dutyInRange v = true) :
    (y &&& ~~~fallingMask) ||| ((v.setWidth 8).setWidth 32 &&& fallingMask) = (y &&& 0xFFFFFF00#32) ||| v := by
  have hle : v.toNat ≤ 255 := by simpa [dutyInRange] using h
  have hmask : v &&& fallingMask = v := by
    apply BitVec.eq_of_toNat_eq
    rw [BitVec.toNat_and, show fallingMask.toNat = 2 ^ 8 - 1 from rfl, Nat.and_two_pow_sub_one_eq_mod]
    omega
  rw [setWidth_setWidth_of_dutyInRange h, hmask, show ~~~fallingMask = 0xFFFFFF00#32 from rfl]

/-- From a nonzero stored duty the fast path is the masked write of the falling byte alone (rule R77). -/
theorem exec_runs_fallingByte {ch : Channel} {value : Word} {s : State} (hrange : dutyInRange value = true)
    (hd : value.setWidth 8 ≠ 0#8) (hold : s.pwm[ch].dutyFallingPoint ≠ 0#8) (hclean : NoFaultAhead 2 s) :
    let y := s.readValue ch .duty
    let dw := (y &&& 0xFFFFFF00#32) ||| value
    ∃ t, CompletesWith (.setDutyFast ch value) s t [.read (regOffset ch .duty) y, .write (regOffset ch .duty) dw]
      (s.regs.set ch { s.regs[ch] with duty := dw }) := by
  intro y dw
  obtain ⟨u, hupdate, hacc, hregs, -⟩ :=
    regUpdate_ok (n := 0) hclean ch .duty fallingMask ((value.setWidth 8).setWidth 32)
  rw [fallingByte_update _ hrange] at hacc hregs
  have hrun : accessesOf (.setDutyFast ch value) s = { completed := true, state := u } := by
    simp only [accessesOf, fastAccesses, if_neg hd, hupdate, AccessRun.andThen, if_true, if_neg hold]
  obtain ⟨t, ht⟩ := exec_completesWith (i := .setDutyFast ch value) hrange hrun hacc
  exact ⟨t, hregs ▸ ht⟩

/-- From a stored duty of 0 the enable step follows; `x` is the control word it reads (rule R77). -/
theorem exec_runs_fallingByte_enable {ch : Channel} {value : Word} {s : State} (hrange : dutyInRange value = true)
    (hd : value.setWidth 8 ≠ 0#8) (hold : s.pwm[ch].dutyFallingPoint = 0#8) (hclean : NoFaultAhead 4 s) :
    let y := s.readValue ch .duty
    let dw := (y &&& 0xFFFFFF00#32) ||| value
    ∃ t x, (s.params.plainStorage = true → x = s.regs[ch].ctrl) ∧ CompletesWith (.setDutyFast ch value) s t
      [.read (regOffset ch .duty) y, .write (regOffset ch .duty) dw, .read (regOffset ch .ctrl) x,
        .write (regOffset ch .ctrl) (x ||| enableMask)]
      (s.regs.set ch { s.regs[ch] with duty := dw, ctrl := x ||| enableMask }) := by
  intro y dw
  obtain ⟨u, hupdate, hacc, hregs, -, hclean'⟩ :=
    regUpdate_ok (n := 2) hclean ch .duty fallingMask ((value.setWidth 8).setWidth 32)
  rw [fallingByte_update _ hrange] at hacc hregs
  obtain ⟨v, henable, hacc', hregs'⟩ := enableStep_ok hclean' ch
  have hrun : accessesOf (.setDutyFast ch value) s = { completed := true, state := v } := by
    simp only [accessesOf, fastAccesses, if_neg hd, hupdate, AccessRun.andThen, if_true, if_pos hold, henable]
  obtain ⟨t, ht⟩ := exec_completesWith (i := .setDutyFast ch value) hrange hrun (hacc.trans hacc')
  refine ⟨t, u.readValue ch .ctrl, fun hplain => ?_, ?_⟩
  · have hplain' : u.params.plainStorage = true := by rw [hacc.storeAlike.1, hplain]
    simp [State.readValue, hplain', hregs]
  · simpa [hregs', hregs] using ht

/-- Settles O37: a case on the stored duty; `x` is read only where it was 0. -/
theorem setDutyFastWritesTheFallingByte : Obligations.SetDutyFastWritesTheFallingByte := by
  intro ch value s hpos hle hclean
  obtain ⟨hrange, hd⟩ := nonzero_duty_of_range hpos hle
  have hy : s.params.plainStorage = true → s.readValue ch .duty = s.regs[ch].duty := fun hplain => by
    simp [State.readValue, hplain]
  by_cases hold : s.pwm[ch].dutyFallingPoint = 0#8
  · obtain ⟨t, x, hx, hexec, hissues, hregs, ⟨hpwm, htach, hcool⟩, hsurroundings, hreturns⟩ :=
      exec_runs_fallingByte_enable hrange hd hold hclean
    exact ⟨t, s.readValue ch .duty, x, hexec, fun hplain => ⟨hy hplain, hx hplain⟩, fun hne => absurd hold hne,
      fun _ => ⟨hissues, hregs⟩, hpwm, htach, hcool, hsurroundings, hreturns⟩
  · obtain ⟨t, hexec, hissues, hregs, ⟨hpwm, htach, hcool⟩, hsurroundings, hreturns⟩ :=
      exec_runs_fallingByte hrange hd hold (hclean.mono (by decide))
    exact ⟨t, s.readValue ch .duty, s.regs[ch].ctrl, hexec, fun hplain => ⟨hy hplain, rfl⟩,
      fun _ => ⟨hissues, hregs⟩, fun h0 => absurd h0 hold, hpwm, htach, hcool, hsurroundings, hreturns⟩

/-- Engine registers of 0, so that both enables are clear. -/
def clearedRegs : Vector ChannelRegs 16 := Vector.replicate 16 { ctrl := 0#32, duty := 0#32, tctrl := 0#32 }

/-- Settles O17: over cleared engine registers the duty 64 is written and no enable. -/
theorem fastPathAloneCanLeaveEnablesClear : Obligations.FastPathAloneCanLeaveEnablesClear := by
  intro p _ hfaults hdef
  have hold : (State.resetWith p clearedRegs).pwm[(0 : Channel)].dutyFallingPoint ≠ 0#8 := by
    simpa [PwmChannelConfig.ofDefaults] using hdef
  obtain ⟨t, hexec, -, hregs, ⟨hpwm, -⟩, -, hreturns⟩ :=
    exec_runs_fallingByte (ch := 0) (value := 64#32) (by decide) (by decide) hold
      (noFaultAhead_of_portFaults_false hfaults 2)
  have hctrl : t.regs[(0 : Channel)].ctrl = 0#32 := by simp [hregs, clearedRegs]
  have hduty : t.pwm[(0 : Channel)].dutyFallingPoint = 64#8 := by simp [hpwm, commitOf]
  have hclear : ¬ EnablesMatch 0#32 64#8 := by unfold EnablesMatch; decide
  refine ⟨clearedRegs, t, hexec, hreturns, ?_⟩
  rwa [enablesMatchDuty_iff, hctrl, hduty]

/-! ### The same duty again -/

theorem NoFaultAhead.afterUpdate {s : State} {n : Nat} (h : NoFaultAhead (n + 2) s) (ch : Channel) (k : RegKind)
    (mask v : Word) : NoFaultAhead n (regUpdate ch k mask v s).state := by
  obtain ⟨t, hrun, -, -, -, hclean⟩ := regUpdate_ok h ch k mask v
  rwa [hrun]

/-- The programming procedure uses up at most four answers of the engine (rules R74, R75). -/
theorem NoFaultAhead.afterProgram {s : State} {n : Nat} (h : NoFaultAhead (n + 4) s) (ch : Channel)
    (r : PwmChannelConfig) (d : Byte) : NoFaultAhead n (programAccesses ch r d s).state := by
  by_cases hd : d = 0#8
  · rw [programAccesses, if_pos hd]
    exact NoFaultAhead.afterUpdate (h.mono (by omega)) ch .ctrl enableMask 0#32
  · rw [programAccesses_of_ne_zero hd]
    obtain ⟨u, hduty, -, -, hu⟩ := regWrite_runs (n := n + 3) h ch .duty (dutyWord r d)
    obtain ⟨v, hctrl, -, -, hv⟩ := regWrite_runs (n := n + 2) hu ch .ctrl
      (ctrlWord r (resolve s.params.inputClockHz r.targetFrequencyHz).coarse
        (resolve s.params.inputClockHz r.targetFrequencyHz).fine)
    simp only [writeWords, AccessRun.andThen, hduty, hctrl, if_true]
    exact hv.afterUpdate ch .ctrl enableMask enableMask

theorem exec_setDuty_noFaultAhead {ch : Channel} {value : Word} {s t : State} {n : Nat}
    (h : exec (.setDuty ch value) s = .next t) (hclean : NoFaultAhead (n + 4) s) : NoFaultAhead n t := by
  have hafter : NoFaultAhead n (accessesOf (.setDuty ch value) s).state := hclean.afterProgram ch _ _
  cases exec_run_cases h with
  | turnedAway _ ht => exact ht ▸ NoFaultAhead.congr (s := s) rfl rfl rfl (hclean.mono (by omega))
  | busFault _ _ ht => exact ht ▸ NoFaultAhead.congr (s := (accessesOf (.setDuty ch value) s).state) rfl rfl rfl hafter
  | completed _ _ ht => exact ht ▸ NoFaultAhead.congr (s := (accessesOf (.setDuty ch value) s).state) rfl rfl rfl hafter

/-- Settles O42: the commit of the first command changes no field its words depend on, and clearing the enables of the
control word twice is clearing them once. -/
theorem setDutyIsIdempotent : Obligations.SetDutyIsIdempotent := by
  intro ch value s hle hplain hclean
  by_cases hpos : 1 ≤ value.toNat
  · obtain ⟨t, x, hexec, hissues, hx, hpwm, -, -, -, ⟨hparams, -⟩, -⟩ :=
      setDutyRunsTheFullPath ch value s hpos hle (hclean.mono (by decide))
    obtain ⟨u, x', hexec', hissues', hx', -⟩ :=
      setDutyRunsTheFullPath ch value t hpos hle (exec_setDuty_noFaultAhead hexec hclean)
    refine ⟨t, u, _, _, hexec, hexec', hissues, hissues', ?_⟩
    have hrecord := (congrArg (·[ch]) hpwm).trans (Vector.getElem_set_self _)
    rw [hx hplain, hx' (hparams ▸ hplain), hparams, hrecord]
    rfl
  · obtain rfl : value = 0#32 := BitVec.eq_of_toNat_eq (by simp; omega)
    obtain ⟨t, x, hexec, hissues, -, -, hregs, -, -, ⟨hparams, -⟩, -⟩ :=
      dutyZeroDisablesTheChannel ch s (.setDuty ch 0#32) (hclean.mono (by decide)) (.inl rfl)
    obtain ⟨u, x', hexec', hissues', hx', -⟩ := dutyZeroDisablesTheChannel ch t (.setDuty ch 0#32)
      ((exec_setDuty_noFaultAhead hexec hclean).mono (by decide)) (.inl rfl)
    have hagain : x' = x &&& 0xFFFEEFFF#32 := by
      rw [hx' (hparams ▸ hplain), hregs]
      simp
    have hwritten : x' &&& 0xFFFEEFFF#32 = x &&& 0xFFFEEFFF#32 := by
      rw [hagain, BitVec.and_assoc, BitVec.and_self]
    rw [hwritten] at hissues'
    exact ⟨t, u, _, _, hexec, hexec', hissues, hissues', rfl⟩

end Sys2Proof.Machine
end

section
/-! PROOF. The tachometer: the tach-control word is its fields side by side, `ENABLE_TACH` writes it and stores the record,
`GET_RPM` converts the last status word of its poll (`pollFor_reads`), and the conversion never reads the free quotient where
divider and pulse count are at least 1. -/

namespace Sys2Proof.Machine

/-! ### The divider and the tach-control word -/

/-- Settles O30: the divider as a power of 4 is the power of 2 with twice the exponent. -/
theorem channelDividerIsAPowerOfFour : Obligations.ChannelDividerIsAPowerOfFour := fun exponent =>
  (channelDivider_toNat exponent).trans (pow_mul 2 2 exponent.toNat).symm

/-- The divider as `ENABLE_TACH` stores it (rule R91). -/
theorem channelDivider_eq_ofNat (exponent : BitVec 4) :
    channelDivider exponent = BitVec.ofNat 32 (2 ^ (2 * exponent.toNat)) := by
  rw [← channelDividerIsAPowerOfFour exponent, BitVec.ofNat_toNat, BitVec.setWidth_eq]

/-- The two-bit code of an edge mode, in the command word and in the tach-control word (rules R43, R90). -/
def edgeBits : EdgeMode → BitVec 2
  | .fallingToFalling => 0#2
  | .risingToRising   => 1#2
  | .both             => 2#2

theorem edgeCode_eq_edgeBits (mode : EdgeMode) : edgeCode mode = (edgeBits mode).setWidth 32 := by
  cases mode <;> rfl

theorem edgeModeOfCode_edgeBits (mode : EdgeMode) : edgeModeOfCode (edgeBits mode) = some mode := by
  cases mode <;> rfl

/-- The tach-control word is its fields side by side (rules R20, R90). -/
theorem tachCtrlWord_eq_append (r : TachChannelConfig) :
    tachCtrlWord r =
      0#1 ++ BitVec.ofBool r.inverseLimitComparison ++ 0#1 ++ 1#1 ++ r.debounceLevel ++ edgeBits r.edgeMode ++
        r.dividerExponent ++ r.threshold.extractLsb' 0 20 := by
  rw [← BitVec.setWidth_eq (0#1 ++ _ ++ _ ++ _ ++ _ ++ _ ++ _ ++ _)]
  simp only [BitVec.setWidth_append_eq_shiftLeft_setWidth_or, BitVec.shiftLeft_or_distrib, tachCtrlWord,
    edgeCode_eq_edgeBits]
  cases r.inverseLimitComparison with
  | false => simp
  | true =>
    have hinverse : ∀ w x : Word, w ||| x ||| 0x40000000#32 = w ||| 0x40000000#32 ||| x := fun w x => by ac_rfl
    simp [hinverse]

/-- Settles O29: the eight fields of `tachCtrlWord_eq_append` one after the other. -/
theorem tachControlWordFields : Obligations.TachControlWordFields := by
  intro r
  have h : (tachCtrlWord r).extractLsb' 0 32 = _ := BitVec.extractLsb'_eq_self.trans (tachCtrlWord_eq_append r)
  obtain ⟨h, hthreshold⟩ := (extractLsb'_eq_append_iff (k := 20)).1 h
  obtain ⟨h, hexponent⟩ := (extractLsb'_eq_append_iff (k := 4)).1 h
  obtain ⟨h, hedge⟩ := (extractLsb'_eq_append_iff (k := 2)).1 h
  obtain ⟨h, hdebounce⟩ := (extractLsb'_eq_append_iff (k := 2)).1 h
  obtain ⟨h, henabled⟩ := (extractLsb'_eq_append_iff (k := 1)).1 h
  obtain ⟨h, hunused⟩ := (extractLsb'_eq_append_iff (k := 1)).1 h
  obtain ⟨htop, hinverse⟩ := (extractLsb'_eq_append_iff (k := 1)).1 h
  exact ⟨hthreshold, hexponent, hedge, hdebounce, getLsbD_eq_of_field (b := true) henabled,
    getLsbD_eq_of_field (b := false) hunused, getLsbD_eq_of_field hinverse, getLsbD_eq_of_field (b := false) htop⟩

/-! ### `ENABLE_TACH` -/

theorem tachOperandsInRange_iff {ppr : Byte} {threshold : Word} :
    tachOperandsInRange ppr threshold = true ↔ ppr ≠ 0#8 ∧ threshold.toNat ≤ 0xFFFFF := by
  simp [tachOperandsInRange]

/-- Settles O45: the operands are admitted, and the one write that does not fault completes. -/
theorem enableTachWritesAndStoresTheRecord : Obligations.EnableTachWritesAndStoresTheRecord := by
  intro ch mode debounce ppr exp inv threshold s hppr hthreshold hclean
  have hmode := edgeModeOfCode_edgeBits mode
  have ha : admits (.enableTach ch (edgeBits mode) debounce ppr exp inv threshold) s = true := by
    simp [admits, hmode, tachOperandsInRange_iff.2 ⟨hppr, hthreshold⟩]
  obtain ⟨u, hwrite, hacc, hregs, -⟩ := regWrite_runs (n := 0) hclean ch .tctrl
    (tachCtrlWord
      { edgeMode := mode, debounceLevel := debounce, pulsesPerRevolution := ppr, dividerExponent := exp,
        inverseLimitComparison := inv, threshold := threshold, divider := channelDivider exp })
  have hrun : accessesOf (.enableTach ch (edgeBits mode) debounce ppr exp inv threshold) s =
      { completed := true, state := u } := by
    simp only [accessesOf, hmode, Option.getD_some, hwrite]
  obtain ⟨t, hexec, hissues, hregs', ⟨hpwm, htach, hcool⟩, hsurroundings, hreturns⟩ := exec_completesWith ha hrun hacc
  rw [commitOf_enableTach_legal hmode] at hpwm htach hcool
  rw [channelDivider_eq_ofNat] at hissues hregs htach
  exact ⟨t, hexec, hissues, htach, hregs'.trans hregs, hpwm, hcool, hsurroundings, hreturns⟩

/-- Settles O46: each of the three operands makes a check fail, and a refused command only raises its status. -/
theorem enableTachRejectsIllegalOperands : Obligations.EnableTachRejectsIllegalOperands := by
  intro ch edge debounce ppr exp inv threshold s hillegal
  have ha : admits (.enableTach ch edge debounce ppr exp inv threshold) s = false := by
    rcases hillegal with rfl | hoperands
    · rfl
    · have hrange : tachOperandsInRange ppr threshold = false := by
        rw [← Bool.not_eq_true, tachOperandsInRange_iff]
        rintro ⟨hppr, hthreshold⟩
        rcases hoperands with hzero | hlarge
        · exact hppr hzero
        · omega
      simp [admits, hrange]
  have hexec : exec (.enableTach ch edge debounce ppr exp inv threshold) s = .next (s.raise .outOfRange) :=
    exec_of_refused ha
  exact ⟨_, hexec, rfl, ⟨rfl, rfl, rfl⟩, ⟨rfl, rfl, rfl, rfl⟩, rfl, rfl⟩

/-! ### The conversion (rules R95, R97) -/

/-- Settles O49: the product is at least 1, so the quotient is not the free one. -/
theorem rpmDividesFirstThenMultiplies : Obligations.RpmDividesFirstThenMultiplies := by
  intro clk divider raw ppr hdivider hppr
  have hproduct : (raw.toNat + 1) * divider.toNat * ppr.toNat ≠ 0 := by positivity
  refine ⟨fun hsentinel => by simp [rpm, hsentinel, Config.tachSentinel], fun hraw => ?_⟩
  simp only [rpm, Config.tachSentinel, hraw, hproduct, Config.rpmFactor, if_false, Nat.succ_ne_zero, BitVec.toNat_ofNat]

/-- Settles O50: `71582788 · 60 < 2 ^ 32`, so neither value is reduced; a larger count divides by a larger product. -/
theorem rpmFallsWithTheCount : Obligations.RpmFallsWithTheCount := by
  intro clk divider raw raw' ppr hdivider hppr hraw hle hfits
  obtain ⟨-, hrpm⟩ := rpmDividesFirstThenMultiplies clk divider raw ppr hdivider hppr
  obtain ⟨hsentinel', hrpm'⟩ := rpmDividesFirstThenMultiplies clk divider raw' ppr hdivider hppr
  have hquotient : clk.toNat / ((raw'.toNat + 1) * divider.toNat * ppr.toNat) ≤
      clk.toNat / ((raw.toNat + 1) * divider.toNat * ppr.toNat) :=
    Nat.div_le_div_left (by gcongr) (by positivity)
  rw [hrpm hraw, Nat.mod_eq_of_lt (by omega)]
  refine ⟨?_, Nat.dvd_mul_left ..⟩
  by_cases hraw' : raw' = 0xFFFFF#20
  · simp [hsentinel' hraw']
  · rw [hrpm' hraw']
    exact (Nat.mod_le ..).trans (Nat.mul_le_mul_right 60 hquotient)

/-! ### `GET_RPM` -/

/-- A read that does not fault (rule R27). -/
theorem regRead_runs {s : State} (h : s.portFault = false) (ch : Channel) (k : RegKind) :
    (regRead ch k s).value = some (s.readValue ch k) ∧
      OnlyAccesses s (regRead ch k s).state [.read (regOffset ch k) (s.readValue ch k)] := by
  rw [regRead_ok h]
  exact ⟨rfl, by simp [OnlyAccesses, KeepsStore, KeepsSurroundings, Issues]⟩

/-- Where no read faults, a poll reads words with bit 20 clear and then the word it returns, whose bit 20 is set unless the
reads are used up (rule R94). -/
theorem pollFor_reads (ch : Channel) {more : Nat} {s : State} (hclean : NoFaultAhead (more + 1) s) :
    ∃ vs v, (pollFor ch more s).value = some (v, !fullFlag v) ∧
      OnlyAccesses s (pollFor ch more s).state ((vs ++ [v]).map (.read (regOffset ch .tsts))) ∧
      vs.length ≤ more ∧ (∀ x ∈ vs, fullFlag x = false) ∧ (vs.length < more → fullFlag v = true) := by
  induction more generalizing s with
  | zero =>
    obtain ⟨hvalue, hacc⟩ := regRead_runs hclean.1 ch .tsts
    simp only [pollFor, hvalue]
    exact ⟨[], _, rfl, hacc, by simp, by simp, by simp⟩
  | succ more ih =>
    obtain ⟨hvalue, hacc⟩ := regRead_runs hclean.1 ch .tsts
    cases hfull : fullFlag (s.readValue ch .tsts) with
    | true =>
      simp only [pollFor, hvalue, hfull, if_true]
      exact ⟨[], _, by rw [hfull]; rfl, hacc, by simp, by simp, fun _ => hfull⟩
    | false =>
      obtain ⟨vs, v, hlast, hacc', hlength, hclear, hset⟩ := ih (hclean.afterRead ch .tsts)
      simp only [pollFor, hvalue, hfull, Bool.false_eq_true, if_false]
      exact ⟨s.readValue ch .tsts :: vs, v, hlast, hacc.trans hacc', Nat.succ_le_succ hlength,
        List.forall_mem_cons.2 ⟨hfull, hclear⟩, fun hlt => hset (Nat.lt_of_succ_lt_succ hlt)⟩

theorem staleAux_eq_append (stale : Bool) : staleAux stale = 0#27 ++ BitVec.ofBool stale := by
  cases stale <;> rfl

/-- Settles O47: the poll completes, the command commits nothing, and it answers with the conversion of the last read. -/
theorem getRpmConvertsTheLastStatusRead : Obligations.GetRpmConvertsTheLastStatusRead := by
  intro ch s hclean
  obtain ⟨vs, v, hvalue, hacc, hlength, hclear, hset⟩ := pollFor_reads (more := 2) ch hclean
  have hpoll : (poll ch s).value = some (v, !fullFlag v) := hvalue
  have hrun : accessesOf (.getRpm ch) s = { completed := true, state := (poll ch s).state } := by
    simp [accessesOf, hpoll]
  obtain ⟨t, hexec, hissues, hregs, hstore, hsurroundings, hreturns⟩ :=
    exec_completesWith (i := .getRpm ch) rfl hrun hacc
  simp only [answerOf, hpoll, staleAux_eq_append] at hreturns
  exact ⟨t, vs, v, hexec, hissues, hlength, hclear, hset, hreturns, hstore, hregs.trans (pollFor_regs ch 2 s),
    hsurroundings⟩

end Sys2Proof.Machine
end

section
/-! PROOF. The cooling commands on a present slot: the two accessors complete on the state they are given, a state that the
table has no level for is refused, and what `SET_CUR_STATE` commits is what `GET_CUR_STATE` and `GET_DUTY` read. -/

namespace Sys2Proof.Machine

/-! ### The accessors -/

section Present

variable {s : State} {ch : Channel} {d : CoolingDevice}

/-- Rule R106. -/
theorem exec_getMaxState_present (h : s.cool[ch] = some d) :
    exec (.getMaxState ch) s = .next (s.complete 0#28 (BitVec.ofNat 32 d.maxState)) := by
  simp only [exec, execGetMaxState, h]

/-- Rule R107. -/
theorem exec_getCurState_present (h : s.cool[ch] = some d) :
    exec (.getCurState ch) s = .next (s.complete 0#28 (BitVec.ofNat 32 d.currentState)) := by
  simp only [exec, execGetCurState, h]

end Present

/-- Settles O51: each accessor completes on the state it was given. -/
theorem coolingAccessorsReturnTheStates : Obligations.CoolingAccessorsReturnTheStates := by
  intro ch s d hdev
  exact ⟨⟨_, exec_getMaxState_present hdev, rfl, ⟨rfl, rfl, rfl⟩, ⟨rfl, rfl, rfl, rfl⟩, rfl, rfl⟩,
    ⟨_, exec_getCurState_present hdev, rfl, ⟨rfl, rfl, rfl⟩, ⟨rfl, rfl, rfl, rfl⟩, rfl, rfl⟩⟩

/-! ### `SET_CUR_STATE` -/

/-- A state without a level is turned away as out of range, not as a missing device (rules R108, R127). -/
theorem exec_setCurState_without_level {s : State} {ch : Channel} {d : CoolingDevice} {state : Word}
    (hdev : s.cool[ch] = some d) (hnone : d.levels[state.toNat]? = none) :
    exec (.setCurState ch state) s = .next (s.raise .outOfRange) := by
  have hrefused : admits (.setCurState ch state) s = false := by simp [admits, hdev, hnone]
  have hstatus : refusalOf (.setCurState ch state) s = .outOfRange := by simp [refusalOf, hdev]
  rw [exec_of_refused hrefused, hstatus]

/-- Settles O55: a state above `length - 1` is no index of the table. -/
theorem setCurStateAboveMaxIsRejected : Obligations.SetCurStateAboveMaxIsRejected := by
  intro ch state s d hdev hpos habove
  have hnone : d.levels[state.toNat]? = none := List.getElem?_eq_none (by omega)
  exact ⟨_, exec_setCurState_without_level hdev hnone, rfl, ⟨rfl, rfl, rfl⟩, ⟨rfl, rfl, rfl, rfl⟩, rfl, rfl⟩

/-- An admitted command runs to its commit where none of its accesses faults. -/
theorem exec_completesWith_of_noFaultAhead {i : Instr} {s : State} (ha : admits i s = true)
    (hclean : NoFaultAhead 4 s) : ∃ t l regs, CompletesWith i s t l regs := by
  obtain ⟨l, hacc, -⟩ := accessesOf_spec i s
  have hrun : accessesOf i s = { completed := true, state := (accessesOf i s).state } :=
    congrArg (AccessRun.mk · _) (accessesOf_completes hclean i)
  obtain ⟨t, ht⟩ := exec_completesWith ha hrun hacc
  exact ⟨t, l, _, ht⟩

/-- Settles O56: the commit stores the state in the slot and the level in the PWM record, whether or not the level is 0, and
the two reads find them there. -/
theorem coolingStateRoundTrip : Obligations.CoolingStateRoundTrip := by
  intro ch state s d duty hdev hlevel hclean
  obtain ⟨ha, -, hcommit⟩ := setCurState_of_level hdev hlevel
  obtain ⟨t, l, regs, hexec, -, -, ⟨hpwm, -, hcool⟩, -, hreturns⟩ := exec_completesWith_of_noFaultAhead ha hclean
  have hslot : t.cool[ch] = some { d with currentState := state.toNat } := by simp [hcool, hcommit]
  have hduty : t.pwm[ch].dutyFallingPoint = duty := by simp [hpwm, hcommit]
  obtain ⟨v, hget, hread, -⟩ := getDutyReturnsTheStoredDuty ch t
  rw [hduty] at hread
  have hstate : Returns t (t.complete 0#28 (BitVec.ofNat 32 state.toNat)) (0#32 ++ state) := by
    rw [BitVec.ofNat_toNat, BitVec.setWidth_eq, ← responseWord_ok_val]
    exact State.complete_responses ..
  exact ⟨t, _, v, hexec, hreturns, exec_getCurState_present hslot, hstate, hget, hread⟩

end Sys2Proof.Machine
end

section
/-! PROOF. The configuration commands: none issues an access, so each is one update of the store followed by its answer, or
a raised status. What such an update leaves is said once for the PWM record and once for the cooling slot. -/

namespace Sys2Proof.Machine

section OneEntry

variable {i : Instr} {s : State} {ch : Channel}

/-! ### A command that writes one entry of the store -/

/-- What a command leaves that completes on one PWM record written (rules R115, R116). -/
theorem writes_record_of_exec {r : PwmChannelConfig} (h : exec i s = .next ((s.setPwm ch r).complete 0#28 0#32)) :
    ∃ t, exec i s = .next t ∧ t.pwm = s.pwm.set ch r ∧ t.tach = s.tach ∧ t.cool = s.cool ∧ IssuesNothing s t ∧
      KeepsSurroundings s t ∧ Returns s t 0#64 :=
  ⟨_, h, rfl, rfl, rfl, ⟨rfl, rfl, rfl, rfl⟩, ⟨rfl, rfl⟩, rfl⟩

/-- What a command leaves that completes on one cooling slot written (rules R117, R118). -/
theorem writes_slot_of_exec {d : Option CoolingDevice} (h : exec i s = .next ((s.setCool ch d).complete 0#28 0#32)) :
    ∃ t, exec i s = .next t ∧ t.cool = s.cool.set ch d ∧ t.pwm = s.pwm ∧ t.tach = s.tach ∧ IssuesNothing s t ∧
      KeepsSurroundings s t ∧ Returns s t 0#64 :=
  ⟨_, h, rfl, rfl, rfl, ⟨rfl, rfl, rfl, rfl⟩, ⟨rfl, rfl⟩, rfl⟩

/-! ### `CFG_COOL_LEVEL`, by its three cases (rule R118) -/

theorem exec_cfgCoolLevel_absent (h : s.cool[ch] = none) (level : Byte) :
    exec (.cfgCoolLevel ch level) s =
      .next ((s.setCool ch (some { pwmChannel := ch, levels := [level], currentState := 0 })).complete 0#28 0#32) := by
  have ha : admits (.cfgCoolLevel ch level) s = true := by simp [admits, h]
  rw [← commitOf_cfgCoolLevel_absent h level]
  exact exec_of_completed ha rfl

theorem exec_cfgCoolLevel_of_room {d : CoolingDevice} (h : s.cool[ch] = some d) (hroom : d.levels.length ≠ 256)
    (level : Byte) :
    exec (.cfgCoolLevel ch level) s =
      .next ((s.setCool ch (some { d with levels := d.levels ++ [level] })).complete 0#28 0#32) := by
  have ha : admits (.cfgCoolLevel ch level) s = true := by simpa [admits, h, Config.maxLevels] using hroom
  rw [← commitOf_cfgCoolLevel_present h level]
  exact exec_of_completed ha rfl

theorem exec_cfgCoolLevel_of_full {d : CoolingDevice} (h : s.cool[ch] = some d) (hfull : d.levels.length = 256)
    (level : Byte) : exec (.cfgCoolLevel ch level) s = .next (s.raise .outOfRange) := by
  have ha : admits (.cfgCoolLevel ch level) s = false := by simpa [admits, h, Config.maxLevels] using hfull
  exact exec_of_refused ha

end OneEntry

/-! ### The statements -/

/-- Settles O57: each command completes on the channel's record with its own fields replaced. -/
theorem configurationWritesItsFields : Obligations.ConfigurationWritesItsFields := by
  intro ch s
  constructor
  · intro enabled edge point
    exact writes_record_of_exec (exec_of_completed (i := .cfgFailsafe ch enabled edge point) rfl rfl)
  · intro sync inverted
    exact writes_record_of_exec (exec_of_completed (i := .cfgFlags ch sync inverted) rfl rfl)

/-- Settles O58: the command is admitted on every slot and writes `none` into it. -/
theorem coolClearMakesTheSlotAbsent : Obligations.CoolClearMakesTheSlotAbsent := by
  intro ch s
  exact writes_slot_of_exec (exec_of_completed (i := .cfgCoolClear ch) rfl rfl)

/-- Settles O59: the absent slot, the table with room and the full table, one after the other. -/
theorem coolLevelCreatesOrAppends : Obligations.CoolLevelCreatesOrAppends := by
  intro ch level s
  refine ⟨fun habsent => ?_, fun d hdev hroom => ?_, fun d hdev hfull => ?_⟩
  · exact writes_slot_of_exec (exec_cfgCoolLevel_absent habsent level)
  · exact writes_slot_of_exec (exec_cfgCoolLevel_of_room hdev hroom level)
  · exact ⟨_, exec_cfgCoolLevel_of_full hdev hfull level, ⟨rfl, rfl, rfl⟩, ⟨rfl, rfl, rfl, rfl⟩, ⟨rfl, rfl⟩, rfl⟩

end Sys2Proof.Machine
end

section
/-! PROOF. Exceptions: a word is rejected exactly when its operation code is not assigned or a must-be-0 bit is set, no
command that is run answers `ILLEGAL_COMMAND`, and a status other than `OK` means that nothing was committed. -/

namespace Sys2Proof

/-! ### Which words are rejected -/

/-- A word spells a command exactly when its operation code is assigned and no must-be-0 bit is set (rule R44). -/
theorem exists_decode_eq_ok_iff {w : CommandWord} :
    (∃ i, decode w = .ok i) ↔ ∃ op : Opcode, op.code = opcField w ∧ w &&& op.mustBeZero = 0#64 := by
  constructor
  · rintro ⟨i, hi⟩
    obtain ⟨hcode, hzero, -⟩ := decode_eq_ok_iff.1 hi
    exact ⟨i.opcode, hcode, hzero⟩
  · rintro ⟨op, hcode, hzero⟩
    exact ⟨op.operands w, decode_eq_ok_iff.2 (by simp only [opcode_operands, hcode, hzero, and_self])⟩

/-- The two reasons of rule R126 to reject a word leave it without a spelling; operation codes are distinct. -/
theorem decode_ne_ok_of_illegal {w : CommandWord}
    (h : (∀ op : Opcode, op.code ≠ opcField w) ∨ ∃ op : Opcode, op.code = opcField w ∧ w &&& op.mustBeZero ≠ 0#64)
    (i : Instr) : decode w ≠ .ok i := by
  intro hi
  obtain ⟨op, hcode, hzero⟩ := exists_decode_eq_ok_iff.1 ⟨i, hi⟩
  rcases h with hunassigned | ⟨op', hcode', hset⟩
  · exact hunassigned op hcode
  · obtain rfl := code_injective (hcode'.trans hcode.symm)
    exact hset hzero

end Sys2Proof

namespace Sys2Proof.Machine

/-! ### What a status other than `OK` says -/

/-- If `r` carries a status other than `OK`, the store is as before and the status is all that `r` carries; unless the
status is `BUS_FAULT`, the engine was left alone too (rules R124 to R127). -/
def FailureKeeps (s t : State) (r : ResponseWord) : Prop :=
  statusField r ≠ 0#4 → KeepsStore s t ∧ r.extractLsb' 0 60 = 0#60 ∧ (statusField r ≠ 2#4 → IssuesNothing s t)

theorem failureKeeps_raise (s : State) (st : Status) : FailureKeeps s (s.raise st) (responseWord st 0#28 0#32) :=
  fun _ => ⟨⟨rfl, rfl, rfl⟩, raised_low_bits st, fun _ => ⟨rfl, rfl, rfl, rfl⟩⟩

theorem failureKeeps_raise_busFault {s u : State} (h : KeepsStore s u) :
    FailureKeeps s (u.raise .busFault) (responseWord .busFault 0#28 0#32) :=
  fun _ => ⟨h, raised_low_bits .busFault, fun hne => absurd (statusField_responseWord ..) hne⟩

theorem failureKeeps_ok (s t : State) (aux : BitVec 28) (val : Word) : FailureKeeps s t (responseWord .ok aux val) :=
  fun hne => absurd (statusField_responseWord ..) hne

/-- Status 3 is `ILLEGAL_COMMAND` and no other (rule R123). -/
theorem statusField_eq_three_iff (st : Status) (aux : BitVec 28) (val : Word) :
    statusField (responseWord st aux val) = 3#4 ↔ st = .illegalCommand := by
  rw [statusField_responseWord]
  cases st <;> decide

/-- A command that is run never answers `ILLEGAL_COMMAND`, and with a status other than `OK` has committed nothing. -/
theorem exec_failureKeeps {i : Instr} {s t : State} (h : exec i s = .next t) :
    ∃ r, Returns s t r ∧ statusField r ≠ 3#4 ∧ FailureKeeps s t r := by
  cases exec_cases h with
  | turnedAway st hst ha =>
    have hlegal : st ≠ .illegalCommand := by rcases hst with rfl | rfl <;> decide
    exact ⟨_, rfl, mt (statusField_eq_three_iff ..).1 hlegal, failureKeeps_raise s st⟩
  | busFault u l ha hacc =>
    obtain ⟨⟨hstore, -, hresp, -⟩, -⟩ := hacc
    exact ⟨responseWord .busFault 0#28 0#32, by simp [Returns, hresp], by simp [statusField_eq_three_iff],
      failureKeeps_raise_busFault hstore⟩
  | completed u l aux val ha hacc =>
    obtain ⟨⟨-, -, hresp, -⟩, -⟩ := hacc
    exact ⟨responseWord .ok aux val, by simp [Returns, hresp], by simp [statusField_eq_three_iff],
      failureKeeps_ok s _ aux val⟩

theorem step_failureKeeps {s t : State} {w : CommandWord} {rest : List HostInput} (hin : s.inputs = .command w :: rest)
    (hstep : step s = .next t) : ∃ r, Returns s t r ∧ FailureKeeps s t r := by
  rcases step_command_cases hin hstep with rfl | ⟨i, -, hi⟩
  · exact ⟨_, rfl, failureKeeps_raise s.dropInput .illegalCommand⟩
  · obtain ⟨r, hreturns, -, hkeeps⟩ := exec_failureKeeps hi
    exact ⟨r, hreturns, hkeeps⟩

/-! ### The statements -/

/-- Settles O7: by whether the word decodes; a word that does not is rejected on the state it met, a command that is run
answers another status. -/
theorem illegalWordsAndOnlyTheyAreRejected : Obligations.IllegalWordsAndOnlyTheyAreRejected := by
  intro s w rest hin
  cases hd : decode w with
  | error e =>
    refine ⟨_, 0x3000000000000000#64, step_of_illegalWord hin hd, rfl, fun _ => ?_, fun hlegal => ?_⟩
    · exact ⟨rfl, ⟨rfl, rfl, rfl⟩, ⟨rfl, rfl, rfl, rfl⟩, rfl, by rw [dropInput_of_cons hin]; rfl⟩
    · obtain ⟨i, hi⟩ := exists_decode_eq_ok_iff.2 hlegal
      exact absurd (hd.symm.trans hi) (by simp)
  | ok i =>
    obtain ⟨t, hexec, -⟩ := exec_outcome i s.dropInput
    obtain ⟨r, hreturns, hstatus, -⟩ := exec_failureKeeps hexec
    exact ⟨t, r, (step_of_command hin hd).trans hexec, hreturns,
      fun hillegal => absurd hd (decode_ne_ok_of_illegal hillegal i), fun _ => hstatus⟩

/-- Settles O9: the response of a step is unique, so it is that of `step_failureKeeps`. -/
theorem failedCommandLeavesTheStore : Obligations.FailedCommandLeavesTheStore := by
  intro s t w rest r hin hstep hreturns
  obtain ⟨r', hreturns', hkeeps⟩ := step_failureKeeps hin hstep
  obtain rfl : r' = r := by simpa using List.append_cancel_left (hreturns'.symm.trans hreturns)
  exact hkeeps

/-- Settles O52: none of the three commands is admitted on an absent slot, and each is turned away with `NO_DEVICE`. -/
theorem absentSlotReturnsNoDevice : Obligations.AbsentSlotReturnsNoDevice := by
  intro ch state s i habsent hi
  have hrefused : admits i s = false ∧ refusalOf i s = .noDevice := by
    rcases hi with rfl | rfl | rfl <;> simp [admits, refusalOf, habsent]
  obtain ⟨ha, hstatus⟩ := hrefused
  have hexec : exec i s = .next (s.raise .noDevice) := hstatus ▸ exec_of_refused ha
  exact ⟨_, hexec, rfl, ⟨rfl, rfl, rfl⟩, ⟨rfl, rfl, rfl, rfl⟩, rfl, rfl⟩

end Sys2Proof.Machine
end

section
/-! PROOF. Hazards: the two encodings of duty 255. `SET_DUTY` writes a low half of 0 ("always on"); the masked write of
`SET_DUTY_FAST` puts 255 in the falling byte and leaves the other three bytes alone. -/

namespace Sys2Proof.Machine

/-- The full path spells a duty of 255 with `RISING` and `FALLING` both 0 (rule R70). -/
theorem dutyWord_255_lowHalf (r : PwmChannelConfig) : (dutyWord r 255#8).extractLsb' 0 16 = 0#16 := by
  have h := dutyWord_eq_append r 255#8
  rw [if_pos rfl, BitVec.append_assoc, BitVec.cast_eq] at h
  exact ((extractLsb'_eq_append_iff (k := 16)).1 (BitVec.extractLsb'_eq_self.trans h)).2

/-- The masked write of the fast path over a low half of 0 (rule R77). -/
theorem fallingByte_255_lowHalf {w : Word} (h : w.extractLsb' 0 16 = 0#16) :
    ((w &&& 0xFFFFFF00#32) ||| 255#32).extractLsb' 0 16 = 0x00FF#16 := by
  rw [BitVec.extractLsb'_or, BitVec.extractLsb'_and, h]
  decide

theorem fallingByte_255_highHalf (w : Word) :
    ((w &&& 0xFFFFFF00#32) ||| 255#32).extractLsb' 16 16 = w.extractLsb' 16 16 := by
  have hmask : (0xFFFFFF00#32).extractLsb' 16 16 = BitVec.allOnes 16 := by decide
  have hbyte : (255#32).extractLsb' 16 16 = 0#16 := by decide
  rw [BitVec.extractLsb'_or, BitVec.extractLsb'_and, hmask, hbyte, BitVec.and_allOnes, BitVec.or_zero]

/-- Settles O43: the first command stores a nonzero duty, so the second is the masked write alone, over the duty word the
first one wrote. -/
theorem twoEncodingsOfDuty255 : Obligations.TwoEncodingsOfDuty255 := by
  intro ch s hplain hclean
  obtain ⟨t, x, hexec, -, -, hpwm, hregs, -, -, ⟨hparams, -⟩, -⟩ :=
    setDutyRunsTheFullPath ch 255#32 s (by decide) (by decide) (hclean.mono (by decide))
  obtain ⟨u, y, x', hexec', hread, hfast, -, hpwm', -⟩ :=
    setDutyFastWritesTheFallingByte ch 255#32 t (by decide) (by decide) (exec_setDuty_noFaultAhead hexec hclean)
  have hword : t.regs[ch].duty = dutyWord s.pwm[ch] 255#8 := by simp [hregs]
  have hduty : t.pwm[ch].dutyFallingPoint = 255#8 := by simp [hpwm]
  have hduty' : u.pwm[ch].dutyFallingPoint = 255#8 := by simp [hpwm']
  obtain ⟨-, hregs'⟩ := hfast (by rw [hduty]; decide)
  obtain ⟨rfl, -⟩ := hread (hparams ▸ hplain)
  have hword' : u.regs[ch].duty = (t.regs[ch].duty &&& 0xFFFFFF00#32) ||| 255#32 := by simp [hregs']
  have hlow : t.regs[ch].duty.extractLsb' 0 16 = 0x0000#16 := hword ▸ dutyWord_255_lowHalf s.pwm[ch]
  exact ⟨t, u, hexec, hexec', hlow, hword' ▸ fallingByte_255_lowHalf hlow, hword' ▸ fallingByte_255_highHalf _,
    hduty, hduty'⟩

end Sys2Proof.Machine
end
